-- ==== Sys2Proof/Word.lean ====
section
/-! DEFINITION. The fixed widths of rule R8: a byte, a register address, a word, the FIFO count, the
DATA field, the command word and the clock value. -/

namespace Sys2Proof

/-- One register's content, one byte of BUF (R8). -/
abbrev Byte := BitVec 8

/-- "an 8-bit location identifier" (R8, R34). -/
abbrev RegAddr := BitVec 8

/-- A word, and the width of FIFOCOUNT, SEQ, REMAIN, IDX and RLEN (R8, R18). -/
abbrev Half := BitVec 16

/-- DATA, RESULT and every host-visible register (R8, R22). -/
abbrev Data := BitVec 32

/-- The command word CMD64 (R56). -/
abbrev Cmd := BitVec 64

/-- The clock value NOW and the captured T0 (R8, R117). -/
abbrev Ticks := BitVec 64

end Sys2Proof
end

