-- ==== Sys2Proof/Config.lean ====
section
/-! DEFINITION. What an implementation fixes (the named parameters of rule R7) and the values the spec
draws from an oracle (R38, R39, R117). -/

namespace Sys2Proof

/-- The named parameters of R7. None is state: they stand in `State.cfg` only because that is how a
step of fixed type takes them as an argument, and no step writes them (log entry 1). -/
structure Params where
  /-- `P_BUF_SIZE`: bytes in BUF. -/
  bufSize : Nat
  /-- `P_MAX_BLOCK`: the transport's maximum block size. -/
  maxBlock : Nat
  /-- `P_OVF_THRESHOLD`: 200 on this hardware (R7, D31). -/
  ovfThreshold : Nat
  /-- `P_TIMEOUT`: the deadline length in ticks. -/
  timeout : Ticks
  /-- `P_FIFO_COUNT_ADDR`: the high byte of the FIFO byte count. -/
  fifoCountAddr : RegAddr
  /-- `P_FIFO_DATA_ADDR`: the register read to drain FIFO bytes. -/
  fifoDataAddr : RegAddr
  /-- `P_FIFO_RESET_REG`: the register that holds the FIFO reset bit. -/
  fifoResetReg : RegAddr
  /-- `P_FIFO_RESET_BIT`: its position, 0 = LSB. -/
  fifoResetBit : BitVec 3
  deriving DecidableEq, Repr

/-- The constraint column of R7's table (the bounds that the field types do not already give). -/
abbrev Params.Legal (p : Params) : Prop :=
  2 ≤ p.bufSize ∧ p.bufSize ≤ 65535 ∧ 1 ≤ p.maxBlock ∧ p.maxBlock ≤ p.bufSize ∧
    p.ovfThreshold ≤ 65535 ∧ p.fifoCountAddr.toNat ≤ 0xFE

/-- The reference configuration of 92_eei_decisions.md D34: not normative, and the value `State.reset`
gives the parameters (log entry 1, DESIGN CHOICE). -/
def Params.reference : Params where
  bufSize := 256
  maxBlock := 32
  ovfThreshold := 200
  timeout := 11000#64
  fifoCountAddr := 0x72#8
  fifoDataAddr := 0x74#8
  fifoResetReg := 0x6A#8
  fifoResetBit := 2#3

/-- FREE VALUE (R38): byte `k` that the transport delivers in draw `n`, where the state's list of
replies does not give it. -/
opaque Config.freeByte : Nat → Nat → Byte

/-- FREE VALUE (R39): whether the transaction of draw `n` ends in a TransportError, where the state's
list of replies does not say. -/
opaque Config.freeError : Nat → Bool

/-- FREE VALUE (R117): how far NOW advances before the ENGINE step of draw `n`, where the state's
agenda does not say. -/
opaque Config.freeTicks : Nat → Ticks

end Sys2Proof
end

