-- ==== Sys2Proof/Machine/State.lean ====
section
/-! DEFINITION. The machine's state: the engine's registers as rule R18 lists them, and beside them the
model's own record of the world outside the engine (the parameters, the clock input, what the host and
the transport do next, and what has crossed the two ports). -/

namespace Sys2Proof.Machine

/-- The control state `fsm` (R20); its codes stand in `Fsm.code`. Codes 10 to 15 are never written, so
they have no constructor. -/
inductive Fsm where
  | idle
  | polling
  | drainReset
  | drainResetWait
  | drainDiscard
  | waiting
  | readPacket
  | packetReady
  | timedOut
  | access
  deriving DecidableEq, Repr

/-- The values of STATUS.ERR (R105); codes 7 to 15 are never written, so they have no constructor. -/
inductive ErrCode where
  /-- 0: no error (also after a timeout). -/
  | none
  /-- 1, E_ILLEGAL: an illegal command word (R60). -/
  | illegal
  /-- 2, E_FIELD: a bit field outside one byte (R61). -/
  | field
  /-- 3, E_LENGTH: a count outside its range (R62). -/
  | length
  /-- 4, E_ADDR: a register span past 0xFF (R63). -/
  | addr
  /-- 5, E_RANGE: a WRITE_WORD value outside [0, 0xFFFF] (R64). -/
  | range
  /-- 6, E_TRANSPORT: a transaction ended in a TransportError (R108). -/
  | transport
  deriving DecidableEq, Repr

/-- The fields of STATUS (R23). FSM (bits 9:6) is a copy of `fsm` and the reserved bits 15:14 read as 0,
so neither is stored: the 32-bit word is `State.statusWord`. -/
structure Status where
  busy : Bool
  done : Bool
  err : ErrCode
  ovf : Bool
  drained : Bool
  timeout : Bool
  pkt : Bool
  rlen : Half
  deriving DecidableEq, Repr

/-- BUF: the bytes written since reset, as (index, byte) pairs with indices strictly rising. An index
that is not listed holds no value a rule may use (R33). -/
abbrev Memory := List Host.Cell

/-- One transaction the engine asks of the transport (R14, R37). -/
inductive Request where
  /-- `MemReadByte(a)`. -/
  | readByte (a : RegAddr)
  /-- `MemWriteByte(a, b)`. -/
  | writeByte (a : RegAddr) (b : Byte)
  /-- `MemRead(a, n)`. -/
  | read (a : RegAddr) (n : Nat)
  /-- `MemWrite(a, n, v)`, `n` the length of `v`. -/
  | write (a : RegAddr) (v : List Byte)
  deriving DecidableEq, Repr

/-- How a transaction ended. -/
inductive Reply where
  /-- Success (R39), with the bytes a read delivers, in order (R42). -/
  | ok (bytes : List Byte)
  /-- A TransportError, a "bus-level NACK/timeout" (R39). -/
  | error
  /-- The engine's reset was asserted while the transaction was in flight; `performed` says whether the
  device performed it, and both are admitted (R119, R120). -/
  | cutByReset (performed : Bool)
  deriving DecidableEq, Repr

/-- A transaction that reached the transport, and how it ended. -/
structure Exchange where
  req : Request
  reply : Reply
  deriving DecidableEq, Repr

/-- What acts on the engine in one step: an operation of the HOST port (R26, R30, R31), the reset input
(R119), the CLOCK (R117), or the ENGINE's own turn (R10). -/
inductive Event where
  /-- HOST_ISSUE(w) (R26). -/
  | issue (w : Cmd)
  /-- HOST_WRITE_BUF(i, b) (R30). -/
  | writeBuf (i : Nat) (b : Byte)
  /-- HOST_READ_REG(n) (R31). -/
  | readReg (n : Nat)
  /-- HOST_READ_BUF(i) (R31). -/
  | readBuf (i : Nat)
  /-- A host write of register number `n` (R29, log entry 10). -/
  | writeReg (n : Nat) (v : Data)
  /-- The reset input, asserted between two steps (R119). -/
  | reset
  /-- NOW advances by `d` ticks (R117). -/
  | tick (d : Ticks)
  /-- One ENGINE step (R10). -/
  | engine
  deriving DecidableEq, Repr

/-- What the host port has answered to a read (R31). -/
inductive HostAnswer where
  | reg (n : Nat) (v : Data)
  | buf (i : Nat) (b : Byte)
  deriving DecidableEq, Repr

/-- The whole state. The first twelve fields are the engine's (R18); the others are the model's own. -/
structure State where
  /-- `fsm`, 4 bits: the control state, which plays the program counter (R20). -/
  fsm : Fsm
  /-- SEQ: index of the next transaction within an accessor command or a reset RMW. -/
  seq : Half
  /-- CMD: the command word latched at issue (R25). -/
  cmd : Cmd
  /-- BUF[0 .. P_BUF_SIZE-1] (R35). -/
  buf : Memory
  /-- RESULT (R24). -/
  result : Data
  /-- STATUS (R23). -/
  status : Status
  /-- FIFOCOUNT: the last FIFO byte count the reader read (R90). -/
  fifocount : Half
  /-- T0: the clock value captured when FIFO_GET_PACKET was issued (R89). -/
  t0 : Ticks
  /-- REMAIN: bytes still to discard or to read in the current phase. -/
  remain : Half
  /-- IDX: next BUF index the packet read writes. -/
  idx : Half
  /-- TMP: the byte read in the first half of a read-modify-write. -/
  tmp : Byte
  /-- PFAULT: the sticky protocol-fault mark (R29). -/
  pfault : Bool
  /-- MODEL'S OWN: the parameters of R7, which no step writes (log entry 1). -/
  cfg : Params
  /-- MODEL'S OWN: the value the clock input NOW shows (R117, log entry 5). -/
  now : Ticks
  /-- MODEL'S OWN: what acts next, oldest first (log entry 2). -/
  agenda : List Event
  /-- MODEL'S OWN: how the next transactions end, oldest first (R38, R39, log entry 4). -/
  replies : List Reply
  /-- MODEL'S OWN: the counter of oracle draws the free values are applied to (log entry 4). -/
  draws : Nat
  /-- MODEL'S OWN: every transaction issued so far, newest first (R48, log entry 16). -/
  bus : List Exchange
  /-- MODEL'S OWN: every value the host port has answered, newest first (R31, log entry 16). -/
  hostOut : List HostAnswer
  deriving DecidableEq, Repr

/-- Why the machine stops. -/
inductive Fault where
  /-- Raised by every step from a state with PFAULT = 1: the host broke the port protocol (R29, R115).
  Safe: the spec has the model refuse the run. -/
  | protocol
  /-- Raised by HOST_READ_BUF of a BUF byte that nothing has written since reset, and by the issue of
  WRITE_WORDS, WRITE_BYTES or WRITE_BYTES_S over one (R31, R33, R70, D37). Safe: the spec has the model
  fault. -/
  | unwrittenBuf
  /-- Raised by a command that would write BUF at or above P_BUF_SIZE, an index that does not exist. No
  run from reset reaches it (Obligations.OnlyHostMistakesStopTheMachine). Safe: the model stops. -/
  | bufOutOfRange
  /-- Raised by an ENGINE step whose `fsm`, STATUS.BUSY and CMD contradict each other. No run from reset
  reaches it (Obligations.OnlyHostMistakesStopTheMachine). Safe: the model stops. -/
  | controlMismatch
  deriving DecidableEq, Repr

/-- Why a step has no meaning. -/
inductive Refusal where
  /-- Raised by an arm of `exec` whose instruction has no meaning yet; no arm is left. Safe. -/
  | notModelled (mnemonic : String)
  deriving DecidableEq, Repr

/-- The outcome of one step. -/
abbrev Out := Host.Outcome State Fault Refusal

/-- STATUS after reset: every field 0 (R23, R32). -/
def Status.reset : Status where
  busy := false
  done := false
  err := .none
  ovf := false
  drained := false
  timeout := false
  pkt := false
  rlen := 0

/-- The machine right after reset (R32, R33, R121). SEQ, T0, REMAIN, IDX and TMP have no reset value in
the spec: 0 is log entry 6's (DESIGN CHOICE). PFAULT = 0 before any operation. BUF lists nothing: no
byte has been written since reset. The model's own fields: log entries 1, 4 and 5. -/
def State.reset : State where
  fsm := .idle
  seq := 0
  cmd := 0
  buf := []
  result := 0
  status := Status.reset
  fifocount := 0
  t0 := 0
  remain := 0
  idx := 0
  tmp := 0
  pfault := false
  cfg := Params.reference
  now := 0
  agenda := []
  replies := []
  draws := 0
  bus := []
  hostOut := []

end Sys2Proof.Machine
end

