-- ==== Sys2Proof/Machine/Flags.lean ====
section
/-! DEFINITION. STATUS: the codes of `fsm` and ERR, what busy means, the 32-bit word, and the writes of
its fields at issue, at completion, at an error and by the reader (rules R20, R21, R23, R26, R28, R107). -/

namespace Sys2Proof.Machine

/-- The 4-bit codes of `fsm` (R20). -/
def Fsm.code : Fsm → BitVec 4
  | .idle => 0
  | .polling => 1
  | .drainReset => 2
  | .drainResetWait => 3
  | .drainDiscard => 4
  | .waiting => 5
  | .readPacket => 6
  | .packetReady => 7
  | .timedOut => 8
  | .access => 9

/-- The states in which the engine is busy (R21). -/
def Fsm.isBusy : Fsm → Bool
  | .idle => false
  | .polling => true
  | .drainReset => true
  | .drainResetWait => true
  | .drainDiscard => true
  | .waiting => true
  | .readPacket => true
  | .packetReady => false
  | .timedOut => false
  | .access => true

/-- The 4-bit codes of STATUS.ERR (R105). -/
def ErrCode.code : ErrCode → BitVec 4
  | .none => 0
  | .illegal => 1
  | .field => 2
  | .length => 3
  | .addr => 4
  | .range => 5
  | .transport => 6

/-- The STATUS word (R23): RLEN 31:16, reserved 15:14 (read as 0), PKT 13, TIMEOUT 12, DRAINED 11,
OVF 10, FSM 9:6, ERR 5:2, DONE 1, BUSY 0. -/
def State.statusWord (s : State) : Data :=
  s.status.rlen ++ 0#2 ++ BitVec.ofBool s.status.pkt ++ BitVec.ofBool s.status.timeout ++
    BitVec.ofBool s.status.drained ++ BitVec.ofBool s.status.ovf ++ s.fsm.code ++ s.status.err.code ++
    BitVec.ofBool s.status.done ++ BitVec.ofBool s.status.busy

/-- The clears of HOST_ISSUE (R26); BUSY is not written here. -/
def Status.cleared (t : Status) : Status :=
  { t with done := false, err := .none, ovf := false, drained := false, timeout := false,
           pkt := false, rlen := 0 }

/-- The STATUS writes of `raise` (R107): OVF, DRAINED, TIMEOUT and PKT are kept. -/
def Status.raised (e : ErrCode) (t : Status) : Status :=
  { t with err := e, rlen := 0, busy := false, done := true }

/-- The STATUS writes of `complete` (R28). -/
def Status.completed (rlen : Nat) (t : Status) : Status :=
  { t with busy := false, done := true, rlen := BitVec.ofNat 16 rlen }

end Sys2Proof.Machine
end

