-- ==== Sys2Proof/Syntax.lean ====
section
/-! DEFINITION. The command set: one constructor per row of spec/opcode_table.json (rules R58, R59). -/

namespace Sys2Proof

/-- A command, with the operands rule R58 gives its OP. A field that R58 marks 0 is no operand. -/
inductive Instr where
  /-- OP 1, `read_bit reg, pos` (R72). -/
  | readBit (reg : RegAddr) (pos : BitVec 3)
  /-- OP 2, `write_bit reg, pos, value` (R73). -/
  | writeBit (reg : RegAddr) (pos : BitVec 3) (value : Bool)
  /-- OP 3, `read_bits reg, start, len` (R74). -/
  | readBits (reg : RegAddr) (start : BitVec 3) (len : BitVec 4)
  /-- OP 4, `write_bits reg, start, len, value` (R75). -/
  | writeBits (reg : RegAddr) (start : BitVec 3) (len : BitVec 4) (value : Data)
  /-- OP 5, `read_byte reg` (R76). -/
  | readByte (reg : RegAddr)
  /-- OP 6, `write_byte reg, byte` (R77). -/
  | writeByte (reg : RegAddr) (byte : Byte)
  /-- OP 7, `read_word reg` (R78). -/
  | readWord (reg : RegAddr)
  /-- OP 8, `write_word reg, value`, the value read as `s32(DATA)` (R79). -/
  | writeWord (reg : RegAddr) (value : Data)
  /-- OP 9, `read_words reg, n` (R80). -/
  | readWords (reg : RegAddr) (n : Data)
  /-- OP 10, `write_words reg, n` (R81). -/
  | writeWords (reg : RegAddr) (n : Data)
  /-- OP 11, `read_bytes reg, n` (R82). -/
  | readBytes (reg : RegAddr) (n : Data)
  /-- OP 12, `write_bytes reg, n` (R83). -/
  | writeBytes (reg : RegAddr) (n : Data)
  /-- OP 13, `read_bytes_s reg, n` (R84). -/
  | readBytesS (reg : RegAddr) (n : Data)
  /-- OP 14, `write_bytes_s reg, n` (R85). -/
  | writeBytesS (reg : RegAddr) (n : Data)
  /-- OP 15, `fifo_get_packet p` (R89). -/
  | fifoGetPacket (p : Data)
  deriving DecidableEq, Repr

end Sys2Proof
end

