-- ==== Sys2Proof/WellFormed.lean ====
section
/-! DEFINITION. When a command is well-formed: its operands lie in the domains rules R61 to R64 give
them. The bounds of every other operand are its type's. Encoding and decoding need none of these:
an ill-formed command is a legal word that issue refuses with an error code. -/

namespace Sys2Proof

/-- `length <= start+1 <= 8` (R61). -/
def fieldInByte (start : BitVec 3) (len : BitVec 4) : Bool :=
  decide (len.toNat ≤ 8) && decide (len.toNat ≤ start.toNat + 1)

/-- `1 <= n <= limit` (R62). -/
def countWithin (n : Data) (limit : Nat) : Bool :=
  decide (1 ≤ n.toNat) && decide (n.toNat ≤ limit)

/-- `span` registers from `reg` on end at or below 0xFF (R63). -/
def registersExist (reg : RegAddr) (span : Nat) : Bool :=
  decide (reg.toNat + span ≤ 0x100)

/-- "range-checked to [0, 0xFFFF]" (R64). -/
def inWordRange (value : Data) : Bool :=
  decide (0 ≤ value.toInt) && decide (value.toInt ≤ 0xFFFF)

/-- The operands of a command lie in the domains of R61 to R64. -/
def Instr.wellFormed (p : Params) : Instr → Bool
  | .readBit _ _ => true
  | .writeBit _ _ _ => true
  | .readBits _ start len => fieldInByte start len
  | .writeBits _ start len _ => fieldInByte start len
  | .readByte _ => true
  | .writeByte _ _ => true
  | .readWord reg => registersExist reg 2
  | .writeWord reg value => registersExist reg 2 && inWordRange value
  | .readWords reg n => countWithin n (p.bufSize / 2) && registersExist reg (2 * n.toNat)
  | .writeWords reg n => countWithin n (p.bufSize / 2) && registersExist reg (2 * n.toNat)
  | .readBytes reg n => countWithin n p.maxBlock && registersExist reg n.toNat
  | .writeBytes reg n => countWithin n p.maxBlock && registersExist reg n.toNat
  | .readBytesS reg n => countWithin n p.bufSize && registersExist reg n.toNat
  | .writeBytesS reg n => countWithin n p.bufSize && registersExist reg n.toNat
  | .fifoGetPacket n => countWithin n p.bufSize

end Sys2Proof
end

