-- ==== Sys2Proof/Decode.lean ====
section
/-! DEFINITION. The command word CMD64 (rules R56 to R60): its fields, a total decoder that rejects by
name, the encoder, the opcode table, and the assembler spelling of a command (R65, R66). -/

namespace Sys2Proof

/-- OP, bits 63:60 (R56). -/
def fieldOp (w : Cmd) : BitVec 4 := w.extractLsb' 60 4
/-- REG, bits 59:52 (R56). -/
def fieldReg (w : Cmd) : RegAddr := w.extractLsb' 52 8
/-- LEN, bits 51:48 (R56). -/
def fieldLen (w : Cmd) : BitVec 4 := w.extractLsb' 48 4
/-- START, bits 47:45 (R56). -/
def fieldStart (w : Cmd) : BitVec 3 := w.extractLsb' 45 3
/-- RSVD, bits 44:32 (R56). -/
def fieldRsvd (w : Cmd) : BitVec 13 := w.extractLsb' 32 13
/-- DATA, bits 31:0 (R56). -/
def fieldData (w : Cmd) : Data := w.extractLsb' 0 32

/-- Why a command word is illegal: the cases (a) to (e) of R60, by the field at fault. Issue answers
each with E_ILLEGAL. -/
inductive Reject where
  /-- OP = 0 (R60 a). -/
  | opZero
  /-- RSVD is not zero (R60 b). -/
  | rsvdNotZero
  /-- REG is not zero where R58 marks it 0 (R60 c). -/
  | regNotZero
  /-- LEN is not zero where R58 marks it 0 (R60 c). -/
  | lenNotZero
  /-- START is not zero where R58 marks it 0 (R60 c). -/
  | startNotZero
  /-- DATA is not zero where R58 marks it 0 (R60 c). -/
  | dataNotZero
  /-- WRITE_BIT with `DATA[31:1]` not zero (R60 d). -/
  | bitValueTooWide
  /-- WRITE_BYTE with `DATA[31:8]` not zero (R60 e). -/
  | byteValueTooWide
  deriving DecidableEq, Repr

/-- `k` if the check holds, else the rejection. -/
def demand (ok : Bool) (r : Reject) (k : Except Reject Instr) : Except Reject Instr :=
  if ok then k else .error r

/-- LEN and START are both marked 0 for OP 5 to 15 (R58). -/
def demandNoField (w : Cmd) (k : Except Reject Instr) : Except Reject Instr :=
  demand (fieldLen w == 0) .lenNotZero (demand (fieldStart w == 0) .startNotZero k)

/-- The decoder: total on every 64-bit word, strict (R59, R60). -/
def decode (w : Cmd) : Except Reject Instr :=
  demand (fieldRsvd w == 0) .rsvdNotZero <|
  match (fieldOp w).toNat with
  | 1 => demand (fieldLen w == 0) .lenNotZero <| demand (fieldData w == 0) .dataNotZero <|
      .ok (.readBit (fieldReg w) (fieldStart w))
  | 2 => demand (fieldLen w == 0) .lenNotZero <|
      demand ((fieldData w).extractLsb' 1 31 == 0) .bitValueTooWide <|
      .ok (.writeBit (fieldReg w) (fieldStart w) ((fieldData w).getLsbD 0))
  | 3 => demand (fieldData w == 0) .dataNotZero <|
      .ok (.readBits (fieldReg w) (fieldStart w) (fieldLen w))
  | 4 => .ok (.writeBits (fieldReg w) (fieldStart w) (fieldLen w) (fieldData w))
  | 5 => demandNoField w <| demand (fieldData w == 0) .dataNotZero <| .ok (.readByte (fieldReg w))
  | 6 => demandNoField w <|
      demand ((fieldData w).extractLsb' 8 24 == 0) .byteValueTooWide <|
      .ok (.writeByte (fieldReg w) ((fieldData w).extractLsb' 0 8))
  | 7 => demandNoField w <| demand (fieldData w == 0) .dataNotZero <| .ok (.readWord (fieldReg w))
  | 8 => demandNoField w <| .ok (.writeWord (fieldReg w) (fieldData w))
  | 9 => demandNoField w <| .ok (.readWords (fieldReg w) (fieldData w))
  | 10 => demandNoField w <| .ok (.writeWords (fieldReg w) (fieldData w))
  | 11 => demandNoField w <| .ok (.readBytes (fieldReg w) (fieldData w))
  | 12 => demandNoField w <| .ok (.writeBytes (fieldReg w) (fieldData w))
  | 13 => demandNoField w <| .ok (.readBytesS (fieldReg w) (fieldData w))
  | 14 => demandNoField w <| .ok (.writeBytesS (fieldReg w) (fieldData w))
  | 15 => demand (fieldReg w == 0) .regNotZero <| demandNoField w <|
      .ok (.fifoGetPacket (fieldData w))
  | _ => .error .opZero

/-- The instruction the decoder reads from the table's `nbits` bits `w` (bit 0 the least significant),
every bit above them 0. A command is one 64-bit word (R57), so a number of more bits is no command. -/
def decodeTableWord (nbits w : Nat) : Option Instr :=
  if w % 2 ^ nbits < 2 ^ 64 then (decode (BitVec.ofNat 64 (w % 2 ^ nbits))).toOption else none

/-- A command word from its fields, most significant first, RSVD zero (R56). -/
def assemble (op : BitVec 4) (reg : RegAddr) (len : BitVec 4) (start : BitVec 3) (data : Data) : Cmd :=
  op ++ reg ++ len ++ start ++ 0#13 ++ data

/-- The command word of a command (R56, R58). -/
def encode : Instr → Cmd
  | .readBit reg pos => assemble 1 reg 0 pos 0
  | .writeBit reg pos value => assemble 2 reg 0 pos (if value then 1 else 0)
  | .readBits reg start len => assemble 3 reg len start 0
  | .writeBits reg start len value => assemble 4 reg len start value
  | .readByte reg => assemble 5 reg 0 0 0
  | .writeByte reg byte => assemble 6 reg 0 0 (byte.setWidth 32)
  | .readWord reg => assemble 7 reg 0 0 0
  | .writeWord reg value => assemble 8 reg 0 0 value
  | .readWords reg n => assemble 9 reg 0 0 n
  | .writeWords reg n => assemble 10 reg 0 0 n
  | .readBytes reg n => assemble 11 reg 0 0 n
  | .writeBytes reg n => assemble 12 reg 0 0 n
  | .readBytesS reg n => assemble 13 reg 0 0 n
  | .writeBytesS reg n => assemble 14 reg 0 0 n
  | .fifoGetPacket p => assemble 15 0 0 0 p

/-- One row of spec/opcode_table.json. -/
structure Row where
  mnemonic : String
  pattern : Cmd
  mask : Cmd
  deriving DecidableEq, Repr

/-- spec/opcode_table.json, row for row. -/
def opcodeTable : List Row :=
  [⟨"READ_BIT", 0x1000000000000000, 0xF00F1FFFFFFFFFFF⟩,
   ⟨"WRITE_BIT", 0x2000000000000000, 0xF00F1FFFFFFFFFFE⟩,
   ⟨"READ_BITS", 0x3000000000000000, 0xF0001FFFFFFFFFFF⟩,
   ⟨"WRITE_BITS", 0x4000000000000000, 0xF0001FFF00000000⟩,
   ⟨"READ_BYTE", 0x5000000000000000, 0xF00FFFFFFFFFFFFF⟩,
   ⟨"WRITE_BYTE", 0x6000000000000000, 0xF00FFFFFFFFFFF00⟩,
   ⟨"READ_WORD", 0x7000000000000000, 0xF00FFFFFFFFFFFFF⟩,
   ⟨"WRITE_WORD", 0x8000000000000000, 0xF00FFFFF00000000⟩] ++
  [⟨"READ_WORDS", 0x9000000000000000, 0xF00FFFFF00000000⟩,
   ⟨"WRITE_WORDS", 0xA000000000000000, 0xF00FFFFF00000000⟩,
   ⟨"READ_BYTES", 0xB000000000000000, 0xF00FFFFF00000000⟩,
   ⟨"WRITE_BYTES", 0xC000000000000000, 0xF00FFFFF00000000⟩,
   ⟨"READ_BYTES_S", 0xD000000000000000, 0xF00FFFFF00000000⟩,
   ⟨"WRITE_BYTES_S", 0xE000000000000000, 0xF00FFFFF00000000⟩,
   ⟨"FIFO_GET_PACKET", 0xF000000000000000, 0xFFFFFFFF00000000⟩]

/-- A row matches a word when `w & mask = match` (R60). -/
def Row.accepts (r : Row) (w : Cmd) : Bool := w &&& r.mask == r.pattern

/-- The name of a command's row in the opcode table. -/
def Instr.mnemonic : Instr → String
  | .readBit _ _ => "READ_BIT"
  | .writeBit _ _ _ => "WRITE_BIT"
  | .readBits _ _ _ => "READ_BITS"
  | .writeBits _ _ _ _ => "WRITE_BITS"
  | .readByte _ => "READ_BYTE"
  | .writeByte _ _ => "WRITE_BYTE"
  | .readWord _ => "READ_WORD"
  | .writeWord _ _ => "WRITE_WORD"
  | .readWords _ _ => "READ_WORDS"
  | .writeWords _ _ => "WRITE_WORDS"
  | .readBytes _ _ => "READ_BYTES"
  | .writeBytes _ _ => "WRITE_BYTES"
  | .readBytesS _ _ => "READ_BYTES_S"
  | .writeBytesS _ _ => "WRITE_BYTES_S"
  | .fifoGetPacket _ => "FIFO_GET_PACKET"

/-- `set_bit reg, pos` (R66). -/
def pseudoSetBit (reg : RegAddr) (pos : BitVec 3) : Instr := .writeBit reg pos true
/-- `clear_bit reg, pos` (R66). -/
def pseudoClearBit (reg : RegAddr) (pos : BitVec 3) : Instr := .writeBit reg pos false
/-- `fifo_reset` (R66). -/
def pseudoFifoReset (p : Params) : Instr := .writeBit p.fifoResetReg p.fifoResetBit true
/-- `fifo_count` (R66): the same transaction as the reader's count read, its result in RESULT. -/
def pseudoFifoCount (p : Params) : Instr := .readWord p.fifoCountAddr

/-- The operands of an assembler line, separated by commas. -/
def asmOperands : List String → String
  | [] => ""
  | [x] => x
  | x :: y :: rest => x ++ ", " ++ asmOperands (y :: rest)

/-- The assembler line of a command, numbers in decimal, the value of `write_word` signed (R65). -/
def Instr.asm : Instr → String
  | .readBit reg pos => "read_bit " ++ asmOperands [reg.toNat.repr, pos.toNat.repr]
  | .writeBit reg pos value =>
    "write_bit " ++ asmOperands [reg.toNat.repr, pos.toNat.repr, if value then "1" else "0"]
  | .readBits reg start len =>
    "read_bits " ++ asmOperands [reg.toNat.repr, start.toNat.repr, len.toNat.repr]
  | .writeBits reg start len value =>
    "write_bits " ++ asmOperands [reg.toNat.repr, start.toNat.repr, len.toNat.repr, value.toNat.repr]
  | .readByte reg => "read_byte " ++ asmOperands [reg.toNat.repr]
  | .writeByte reg byte => "write_byte " ++ asmOperands [reg.toNat.repr, byte.toNat.repr]
  | .readWord reg => "read_word " ++ asmOperands [reg.toNat.repr]
  | .writeWord reg value => "write_word " ++ asmOperands [reg.toNat.repr, value.toInt.repr]
  | .readWords reg n => "read_words " ++ asmOperands [reg.toNat.repr, n.toNat.repr]
  | .writeWords reg n => "write_words " ++ asmOperands [reg.toNat.repr, n.toNat.repr]
  | .readBytes reg n => "read_bytes " ++ asmOperands [reg.toNat.repr, n.toNat.repr]
  | .writeBytes reg n => "write_bytes " ++ asmOperands [reg.toNat.repr, n.toNat.repr]
  | .readBytesS reg n => "read_bytes_s " ++ asmOperands [reg.toNat.repr, n.toNat.repr]
  | .writeBytesS reg n => "write_bytes_s " ++ asmOperands [reg.toNat.repr, n.toNat.repr]
  | .fifoGetPacket p => "fifo_get_packet " ++ asmOperands [p.toNat.repr]

end Sys2Proof
end

