-- ==== Sys2Proof/Machine/Operands.lean ====
section
/-! DEFINITION. Operand forms: bit masks and fields (R69, R72 to R75), big-endian words (R41), the
issue-time checks in their order (R61 to R64, R106), and the number of transactions per command (R45). -/

namespace Sys2Proof.Machine

/-- The one-bit mask of READ_BIT, WRITE_BIT and the FIFO reset: `1 << START` (R69). -/
def bitMask (pos : BitVec 3) : Byte := 1#8 <<< pos.toNat

/-- `lsb = START - LEN + 1` (R69); 0 to 8 for a field that passes R61. -/
def fieldLsb (start : BitVec 3) (len : BitVec 4) : Nat := start.toNat + 1 - len.toNat

/-- `mask = ((1 << LEN) - 1) << lsb`, an 8-bit value (R69). -/
def fieldMask (start : BitVec 3) (len : BitVec 4) : Byte :=
  BitVec.ofNat 8 (((1 <<< len.toNat) - 1) <<< fieldLsb start len)

/-- WRITE_BIT's new byte (R73). -/
def setBit (old : Byte) (pos : BitVec 3) (value : Bool) : Byte :=
  if value then old ||| bitMask pos else old &&& ~~~bitMask pos

/-- READ_BITS's field, `(b & mask) >> lsb` (R74). -/
def extractField (b : Byte) (start : BitVec 3) (len : BitVec 4) : Byte :=
  (b &&& fieldMask start len) >>> fieldLsb start len

/-- WRITE_BITS's new byte, `(TMP & ~mask) | ((DATA << lsb) & mask)` (R75). -/
def insertField (old : Byte) (start : BitVec 3) (len : BitVec 4) (value : Data) : Byte :=
  (old &&& ~~~fieldMask start len) |||
    (BitVec.ofNat 8 (value.toNat <<< fieldLsb start len) &&& fieldMask start len)

/-- `(b[START])` as READ_BIT's RESULT: 0 or 1 (R72). -/
def bitResult (b : Byte) (pos : BitVec 3) : Data := if b.getLsbD pos.toNat then 1 else 0

/-- The word `{hi, lo}`: the first byte delivered is bits 15:8 (R41). -/
def beWord (hi lo : Byte) : Half := hi ++ lo

/-- The bytes of a word as a block carries them, high byte first (R41, R79). -/
def beBytes (v : Data) : List Byte := [v.extractLsb' 8 8, v.extractLsb' 0 8]

/-- E_FIELD is raised when `LEN > 8` or `LEN > START + 1` (R61). -/
def fieldFails (start : BitVec 3) (len : BitVec 4) : Bool :=
  decide (len.toNat > 8) || decide (len.toNat > start.toNat + 1)

/-- E_LENGTH is raised unless `1 <= n <= limit` (R62). -/
def lengthFails (n : Data) (limit : Nat) : Bool := !(decide (1 ≤ n.toNat) && decide (n.toNat ≤ limit))

/-- E_ADDR is raised when `REG + span - 1 > 0xFF` (R63). -/
def addrFails (reg : RegAddr) (span : Nat) : Bool := decide (reg.toNat + span - 1 > 0xFF)

/-- E_RANGE is raised when `s32(DATA) < 0` or `s32(DATA) > 0xFFFF` (R64). -/
def rangeFails (v : Data) : Bool := decide (v.toInt < 0) || decide (v.toInt > 0xFFFF)

/-- The first failing check of a list in order, each with the error it raises (R106). -/
def firstFailure : List (Bool × ErrCode) → Option ErrCode
  | [] => none
  | (fails, e) :: rest => if fails then some e else firstFailure rest

/-- The issue-time checks after E_ILLEGAL, in R106's order: E_FIELD, E_LENGTH, E_ADDR, E_RANGE. -/
def issueCheck (p : Params) : Instr → Option ErrCode
  | .readBit _ _ => none
  | .writeBit _ _ _ => none
  | .readBits _ start len => firstFailure [(fieldFails start len, .field)]
  | .writeBits _ start len _ => firstFailure [(fieldFails start len, .field)]
  | .readByte _ => none
  | .writeByte _ _ => none
  | .readWord reg => firstFailure [(addrFails reg 2, .addr)]
  | .writeWord reg v => firstFailure [(addrFails reg 2, .addr), (rangeFails v, .range)]
  | .readWords reg n =>
    firstFailure [(lengthFails n (p.bufSize / 2), .length), (addrFails reg (2 * n.toNat), .addr)]
  | .writeWords reg n =>
    firstFailure [(lengthFails n (p.bufSize / 2), .length), (addrFails reg (2 * n.toNat), .addr)]
  | .readBytes reg n =>
    firstFailure [(lengthFails n p.maxBlock, .length), (addrFails reg n.toNat, .addr)]
  | .writeBytes reg n =>
    firstFailure [(lengthFails n p.maxBlock, .length), (addrFails reg n.toNat, .addr)]
  | .readBytesS reg n =>
    firstFailure [(lengthFails n p.bufSize, .length), (addrFails reg n.toNat, .addr)]
  | .writeBytesS reg n =>
    firstFailure [(lengthFails n p.bufSize, .length), (addrFails reg n.toNat, .addr)]
  | .fifoGetPacket n => firstFailure [(lengthFails n p.bufSize, .length)]

/-- OP 1 to 14 (R27); OP 15 is the reader. -/
def isAccessor : Instr → Bool
  | .readBit _ _ => true
  | .writeBit _ _ _ => true
  | .readBits _ _ _ => true
  | .writeBits _ _ _ _ => true
  | .readByte _ => true
  | .writeByte _ _ => true
  | .readWord _ => true
  | .writeWord _ _ => true
  | .readWords _ _ => true
  | .writeWords _ _ => true
  | .readBytes _ _ => true
  | .writeBytes _ _ => true
  | .readBytesS _ _ => true
  | .writeBytesS _ _ => true
  | .fifoGetPacket _ => false

/-- How many transactions an accessor command has (R45). FIFO_GET_PACKET has no fixed number. -/
def transactions : Instr → Nat
  | .readBit _ _ => 1
  | .writeBit _ _ _ => 2
  | .readBits _ _ _ => 1
  | .writeBits _ _ _ _ => 2
  | .readByte _ => 1
  | .writeByte _ _ => 1
  | .readWord _ => 1
  | .writeWord _ _ => 1
  | .readWords _ n => n.toNat
  | .writeWords _ n => n.toNat
  | .readBytes _ _ => 1
  | .writeBytes _ _ => 1
  | .readBytesS _ n => n.toNat
  | .writeBytesS _ n => n.toNat
  | .fifoGetPacket _ => 0

/-- How many bytes of BUF, from BUF[0] on, a command takes its data from (R58, R70). -/
def sourceBytes : Instr → Nat
  | .readBit _ _ => 0
  | .writeBit _ _ _ => 0
  | .readBits _ _ _ => 0
  | .writeBits _ _ _ _ => 0
  | .readByte _ => 0
  | .writeByte _ _ => 0
  | .readWord _ => 0
  | .writeWord _ _ => 0
  | .readWords _ _ => 0
  | .writeWords _ n => 2 * n.toNat
  | .readBytes _ _ => 0
  | .writeBytes _ n => n.toNat
  | .readBytesS _ _ => 0
  | .writeBytesS _ n => n.toNat
  | .fifoGetPacket _ => 0

end Sys2Proof.Machine
end

