-- ==== Sys2Proof/Machine/Ops.lean ====
section
/-! DEFINITION. The named operations the meanings are built from: BUF, transactions with the transport,
ending a command (`complete`, `raise`), issue's latch and start, the deadline, and the engine's reset. -/

namespace Sys2Proof.Machine

/-! ### BUF -/

/-- What an unlisted index of BUF reads as: no value (R33). -/
def Memory.unlisted : Option Byte := none

/-- `BUF[i]`. -/
def Memory.read (m : Memory) (i : Nat) : Option Byte :=
  match m with
  | [] => Memory.unlisted
  | (j, b) :: rest => if j = i then some b else Memory.read rest i

/-- `BUF[i] <- b`, keeping the indices strictly rising. -/
def Memory.write (m : Memory) (i : Nat) (b : Byte) : Memory :=
  match m with
  | [] => [(i, b)]
  | (j, c) :: rest =>
    if i < j then (i, b) :: (j, c) :: rest
    else if i = j then (i, b) :: rest
    else (j, c) :: Memory.write rest i b

/-- `BUF[i + k] <- v[k]` for each byte of `v`, in order (R42). -/
def Memory.writeBlock (m : Memory) (i : Nat) (v : List Byte) : Memory :=
  match v with
  | [] => m
  | b :: rest => Memory.writeBlock (Memory.write m i b) (i + 1) rest

/-- The bytes `BUF[i], ..., BUF[i + n - 1]`, if every one of them holds a value. -/
def Memory.readBlock (m : Memory) (i n : Nat) : Option (List Byte) :=
  match n with
  | 0 => some []
  | k + 1 =>
    match Memory.read m i, Memory.readBlock m (i + 1) k with
    | some b, some rest => some (b :: rest)
    | _, _ => none

/-- Every index listed is at or above `lo`, and the indices rise strictly. -/
def Memory.risesFrom (lo : Nat) (m : Memory) : Bool :=
  match m with
  | [] => true
  | (j, _) :: rest => decide (lo ≤ j) && Memory.risesFrom (j + 1) rest

/-- The canonical form: indices strictly rising. (No entry can equal what an unlisted index reads as,
which is no value.) -/
def Memory.wf (m : Memory) : Bool := Memory.risesFrom 0 m

/-- Every index listed lies below `size`. -/
def Memory.below (size : Nat) (m : Memory) : Bool := m.all fun c => decide (c.1 < size)

/-- Store bytes into BUF from index `i` on and go on; an index at or above P_BUF_SIZE does not exist. -/
def bufStore (i : Nat) (v : List Byte) (s : State) (k : State → Out) : Out :=
  if i + v.length ≤ s.cfg.bufSize then k { s with buf := s.buf.writeBlock i v }
  else .fault .bufOutOfRange

/-- Load `n` bytes of BUF from index `i` on and go on; a byte not written since reset faults (R70).
No running command meets one: its issue has seen to its bytes (`sourceWritten`). -/
def bufLoad (i n : Nat) (s : State) (k : List Byte → Out) : Out :=
  match s.buf.readBlock i n with
  | some v => k v
  | none => .fault .unwrittenBuf

/-! ### Ending and starting a command -/

/-- `complete(rlen)` (R28): PACKET_READY and TIMED_OUT are left as the reader set them. -/
def complete (rlen : Nat) (s : State) : State :=
  { s with status := s.status.completed rlen, fsm := if s.fsm = .access then .idle else s.fsm }

/-- `raise E_X(info)` (R107): the one way an error is taken. -/
def raise (e : ErrCode) (info : Data) (s : State) : State :=
  { s with status := s.status.raised e, result := info, fsm := .idle }

/-- The latch and clears of HOST_ISSUE (R26): the one way out of an error (R114). -/
def latch (w : Cmd) (s : State) : State :=
  { s with cmd := w, status := s.status.cleared, result := 0 }

/-- Issue of an accessor command that passed its checks (R26, R27). -/
def startAccess (s : State) : State :=
  { s with status := { s.status with busy := true }, fsm := .access, seq := 0 }

/-- Issue of FIFO_GET_PACKET after its checks (R26, R89): the one deadline starts here. -/
def startReader (s : State) : State :=
  { s with status := { s.status with busy := true }, t0 := s.now, fifocount := 0, fsm := .polling }

/-- Every byte of BUF a command takes its data from has been written since reset (R33, R70). -/
def sourceWritten (i : Instr) (m : Memory) : Bool := (m.readBlock 0 (sourceBytes i)).isSome

/-- The checks of issue, then the start. A failing check raises its error with info 0 (R26, R106). A
command that passes them but was issued over a BUF byte never written since reset faults the run (R33,
D37, log entry 8). -/
def issueChecked (i : Instr) (start : State → State) (s : State) : Out :=
  match issueCheck s.cfg i with
  | some e => .next (raise e 0 s)
  | none => if sourceWritten i s.buf then .next (start s) else .fault .unwrittenBuf

/-- The engine's reset (R32, R33, R119): SEQ, T0, REMAIN, IDX and TMP get log entry 6's value, PFAULT is
kept, and nothing outside the engine changes. -/
def resetEngine (s : State) : State :=
  { s with fsm := .idle, seq := 0, cmd := 0, buf := [], result := 0, status := Status.reset,
           fifocount := 0, t0 := 0, remain := 0, idx := 0, tmp := 0 }

/-! ### Transactions -/

/-- The register address a transaction is issued to (R108). -/
def Request.addr : Request → RegAddr
  | .readByte a => a
  | .writeByte a _ => a
  | .read a _ => a
  | .write a _ => a

/-- How many bytes a transaction delivers. -/
def Request.readLen : Request → Nat
  | .readByte _ => 1
  | .writeByte _ _ => 0
  | .read _ n => n
  | .write _ _ => 0

/-- Exactly `n` bytes: those given, then the oracle's (R38). `k` is the index of the first one in draw `d`. -/
def fillBytes (d k n : Nat) (given : List Byte) : List Byte :=
  match n, given with
  | 0, _ => []
  | m + 1, [] => Config.freeByte d k :: fillBytes d (k + 1) m []
  | m + 1, b :: rest => b :: fillBytes d (k + 1) m rest

/-- How this transaction ends: as the state's list says, else as the oracle draws (R38, R39). -/
def replyTo (req : Request) (s : State) : Reply :=
  match s.replies with
  | [] => if Config.freeError s.draws then .error else .ok (fillBytes s.draws 0 req.readLen [])
  | .ok given :: _ => .ok (fillBytes s.draws 0 req.readLen given)
  | .error :: _ => .error
  | .cutByReset performed :: _ => .cutByReset performed

/-- The state after the transaction, nothing of the engine touched yet (R40). -/
def afterTxn (req : Request) (s : State) : State :=
  { s with replies := s.replies.tail, draws := s.draws + 1,
           bus := { req := req, reply := replyTo req s } :: s.bus }

/-- One transaction, then the computation after it. A TransportError raises E_TRANSPORT with the
transaction's register address and nothing is retried (R68, R97, R108). A reset in flight abandons the
command (R119, R120). -/
def transact (req : Request) (s : State) (k : List Byte → State → Out) : Out :=
  match replyTo req s with
  | .ok d => k d (afterTxn req s)
  | .error => .next (raise .transport (req.addr.setWidth 32) (afterTxn req s))
  | .cutByReset _ => .next (resetEngine (afterTxn req s))

/-- `MemReadByte(a)` (R14). -/
def memReadByte (a : RegAddr) (s : State) (k : Byte → State → Out) : Out :=
  transact (.readByte a) s fun d t => k (d.getD 0 0) t

/-- `MemWriteByte(a, b)` (R14). -/
def memWriteByte (a : RegAddr) (b : Byte) (s : State) (k : State → Out) : Out :=
  transact (.writeByte a b) s fun _ t => k t

/-- `MemRead(a, n)` (R14). -/
def memRead (a : RegAddr) (n : Nat) (s : State) (k : List Byte → State → Out) : Out :=
  transact (.read a n) s k

/-- `MemWrite(a, n, v)` (R14). -/
def memWrite (a : RegAddr) (v : List Byte) (s : State) (k : State → Out) : Out :=
  transact (.write a v) s fun _ t => k t

/-! ### Accessor commands -/

/-- An accessor command in one step (R26, R27, R68): issue when the engine is not busy, else the
command's next transaction. -/
def accessor (i : Instr) (run : State → Out) (s : State) : Out :=
  if s.status.busy then
    if s.fsm = .access then run s else .fault .controlMismatch
  else issueChecked i startAccess s

/-- `SEQ <- SEQ + 1` (R68). -/
def advance (s : State) : State := { s with seq := s.seq + 1 }

/-- The end of an accessor's step: SEQ moves on, and the command completes after transaction `n` (R68). -/
def stepTo (n rlen : Nat) (s : State) : State :=
  if n ≤ s.seq.toNat + 1 then complete rlen (advance s) else advance s

/-! ### The reader's deadline -/

/-- `Expired()`: `(NOW - T0) mod 2^64 > P_TIMEOUT`, strict (R91). -/
def expired (s : State) : Bool := decide ((s.now - s.t0).toNat > s.cfg.timeout.toNat)

/-- The empty result (R91). -/
def timeOut (s : State) : State :=
  complete 0 { s with fsm := .timedOut, status := { s.status with timeout := true } }

end Sys2Proof.Machine
end

