-- ==== Sys2Proof/Machine/Bits.lean ====
section
/-! DEFINITION. Bit and bit-field commands: READ_BIT, WRITE_BIT, READ_BITS, WRITE_BITS (R72 to R75).
Each meaning is one step of its command: issue while the engine is idle, else the next transaction. -/

namespace Sys2Proof.Machine

/-- The two steps of a read-modify-write of `reg` (R47, R73, R75): `TMP <- MemReadByte(reg)`, then the
write of the byte `f TMP`, which is also RESULT. -/
def readModifyWrite (reg : RegAddr) (f : Byte → Byte) (s : State) : Out :=
  if s.seq = 0 then
    memReadByte reg s fun b t => .next (stepTo 2 0 { t with tmp := b })
  else
    memWriteByte reg (f s.tmp) s fun t => .next (stepTo 2 0 { t with result := (f s.tmp).setWidth 32 })

/-- READ_BIT (R72). -/
def execReadBit (reg : RegAddr) (pos : BitVec 3) (s : State) : Out :=
  accessor (.readBit reg pos)
    (fun s => memReadByte reg s fun b t => .next (stepTo 1 0 { t with result := bitResult b pos })) s

/-- WRITE_BIT (R73): the write is issued even when the byte is unchanged. -/
def execWriteBit (reg : RegAddr) (pos : BitVec 3) (value : Bool) (s : State) : Out :=
  accessor (.writeBit reg pos value) (readModifyWrite reg fun b => setBit b pos value) s

/-- READ_BITS (R74): the read is issued even when LEN = 0. -/
def execReadBits (reg : RegAddr) (start : BitVec 3) (len : BitVec 4) (s : State) : Out :=
  accessor (.readBits reg start len)
    (fun s => memReadByte reg s fun b t =>
      .next (stepTo 1 0 { t with result := (extractField b start len).setWidth 32 })) s

/-- WRITE_BITS (R75). -/
def execWriteBits (reg : RegAddr) (start : BitVec 3) (len : BitVec 4) (value : Data) (s : State) : Out :=
  accessor (.writeBits reg start len value)
    (readModifyWrite reg fun b => insertField b start len value) s

end Sys2Proof.Machine
end

