-- ==== Sys2Proof/Machine/Blocks.lean ====
section
/-! DEFINITION. Word-block and byte-block commands: READ_WORDS, WRITE_WORDS, READ_BYTES, WRITE_BYTES and
their one-byte-at-a-time forms (R80 to R85). SEQ is the loop index i of the rules. -/

namespace Sys2Proof.Machine

/-- Register address `REG + k`. -/
def regAt (reg : RegAddr) (k : Nat) : RegAddr := reg + BitVec.ofNat 8 k

/-- READ_WORDS (R80): one 2-byte read per word, never one long block. -/
def execReadWords (reg : RegAddr) (n : Data) (s : State) : Out :=
  accessor (.readWords reg n)
    (fun s => memRead (regAt reg (2 * s.seq.toNat)) 2 s fun d t =>
      bufStore (2 * s.seq.toNat) d t fun u => .next (stepTo n.toNat (2 * n.toNat) u)) s

/-- WRITE_WORDS (R81). -/
def execWriteWords (reg : RegAddr) (n : Data) (s : State) : Out :=
  accessor (.writeWords reg n)
    (fun s => bufLoad (2 * s.seq.toNat) 2 s fun v =>
      memWrite (regAt reg (2 * s.seq.toNat)) v s fun t => .next (stepTo n.toNat 0 t)) s

/-- READ_BYTES (R82): one block read; a TransportError leaves BUF unchanged. -/
def execReadBytes (reg : RegAddr) (n : Data) (s : State) : Out :=
  accessor (.readBytes reg n)
    (fun s => memRead reg n.toNat s fun d t =>
      bufStore 0 d t fun u => .next (stepTo 1 n.toNat u)) s

/-- WRITE_BYTES (R83): one block write. -/
def execWriteBytes (reg : RegAddr) (n : Data) (s : State) : Out :=
  accessor (.writeBytes reg n)
    (fun s => bufLoad 0 n.toNat s fun v => memWrite reg v s fun t => .next (stepTo 1 0 t)) s

/-- READ_BYTES_S (R84): byte reads at REG, REG + 1, ... -/
def execReadBytesS (reg : RegAddr) (n : Data) (s : State) : Out :=
  accessor (.readBytesS reg n)
    (fun s => memReadByte (regAt reg s.seq.toNat) s fun b t =>
      bufStore s.seq.toNat [b] t fun u => .next (stepTo n.toNat n.toNat u)) s

/-- WRITE_BYTES_S (R85): byte writes at REG, REG + 1, ... -/
def execWriteBytesS (reg : RegAddr) (n : Data) (s : State) : Out :=
  accessor (.writeBytesS reg n)
    (fun s => bufLoad s.seq.toNat 1 s fun v =>
      memWriteByte (regAt reg s.seq.toNat) (v.getD 0 0) s fun t => .next (stepTo n.toNat 0 t)) s

end Sys2Proof.Machine
end

