-- ==== Sys2Proof/Machine/Bytes.lean ====
section
/-! DEFINITION. Byte and word commands: READ_BYTE, WRITE_BYTE, READ_WORD, WRITE_WORD (R76 to R79). -/

namespace Sys2Proof.Machine

/-- READ_BYTE (R76). -/
def execReadByte (reg : RegAddr) (s : State) : Out :=
  accessor (.readByte reg)
    (fun s => memReadByte reg s fun b t => .next (stepTo 1 0 { t with result := b.setWidth 32 })) s

/-- WRITE_BYTE (R77): no read is issued. -/
def execWriteByte (reg : RegAddr) (byte : Byte) (s : State) : Out :=
  accessor (.writeByte reg byte)
    (fun s => memWriteByte reg byte s fun t => .next (stepTo 1 0 t)) s

/-- READ_WORD (R78): one 2-byte block read, RESULT unsigned. -/
def execReadWord (reg : RegAddr) (s : State) : Out :=
  accessor (.readWord reg)
    (fun s => memRead reg 2 s fun d t =>
      .next (stepTo 1 0 { t with result := (beWord (d.getD 0 0) (d.getD 1 0)).setWidth 32 })) s

/-- WRITE_WORD (R79): one 2-byte block write, high byte first. -/
def execWriteWord (reg : RegAddr) (value : Data) (s : State) : Out :=
  accessor (.writeWord reg value)
    (fun s => memWrite reg (beBytes value) s fun t => .next (stepTo 1 0 t)) s

end Sys2Proof.Machine
end

