-- ==== Sys2Proof/Machine/Fifo.lean ====
section
/-! DEFINITION. FIFO_GET_PACKET (R89): the FIFO packet reader's state machine (R90 to R97). `p` is the
packet size P throughout. -/

namespace Sys2Proof.Machine

/-- `CountRead()` (R90): one 2-byte block read, "big-endian: high byte then low byte". -/
def countRead (s : State) (k : Nat → State → Out) : Out :=
  memRead s.cfg.fifoCountAddr 2 s fun d t =>
    k (beWord (d.getD 0 0) (d.getD 1 0)).toNat { t with fifocount := beWord (d.getD 0 0) (d.getD 1 0) }

/-- Transition 4: `REMAIN <- P; IDX <- 0; fsm <- READ_PACKET` (R92, R94, R95). -/
def enterRead (p : Nat) (s : State) : State :=
  { s with remain := BitVec.ofNat 16 p, idx := 0, fsm := .readPacket }

/-- What follows a count in POLLING or WAITING (R92): read the packet, reset on overflow, discard a
backlog, end empty at the deadline, or stay. -/
def classify (p c : Nat) (s : State) : State :=
  if c = p then enterRead p s
  else if c > p ∧ c > s.cfg.ovfThreshold then
    { s with status := { s.status with ovf := true }, seq := 0, fsm := .drainReset }
  else if c > p then
    { s with status := { s.status with drained := true }, remain := BitVec.ofNat 16 (c - p),
             fsm := .drainDiscard }
  else if expired s then timeOut s
  else s

/-- A step in POLLING or WAITING (R92). -/
def pollStep (p : Nat) (s : State) : Out :=
  countRead s fun c t => .next (classify p c t)

/-- A step in DRAIN_RESET (R93): the two halves of the read-modify-write that sets the reset bit. -/
def resetStep (s : State) : Out :=
  if s.seq = 0 then
    memReadByte s.cfg.fifoResetReg s fun b t => .next { t with tmp := b, seq := 1 }
  else
    memWriteByte s.cfg.fifoResetReg (setBit s.tmp s.cfg.fifoResetBit true) s fun t =>
      .next { t with fsm := .drainResetWait }

/-- What follows a count in DRAIN_RESET_WAIT (R94). -/
def afterReset (p c : Nat) (s : State) : State :=
  if c = 0 then
    if expired s then timeOut s else s
  else if c = p then enterRead p s
  else if expired s then timeOut s
  else { s with fsm := .waiting }

/-- A step in DRAIN_RESET_WAIT (R94). -/
def resetWaitStep (p : Nat) (s : State) : Out :=
  countRead s fun c t => .next (afterReset p c t)

/-- What follows the re-read count in DRAIN_DISCARD (R95): no overflow test, and no deadline test while
the count stays above P. -/
def afterDiscard (p c : Nat) (s : State) : State :=
  if c > p then { s with remain := BitVec.ofNat 16 (c - p) }
  else if c = p then enterRead p s
  else if expired s then timeOut s
  else { s with fsm := .waiting }

/-- The length of the next sub-read: `k <- min(REMAIN, P_MAX_BLOCK)` (R95, R96). -/
def chunk (s : State) : Nat := min s.remain.toNat s.cfg.maxBlock

/-- A step in DRAIN_DISCARD (R95): drop a chunk, or re-read the count. -/
def discardStep (p : Nat) (s : State) : Out :=
  if 0 < s.remain.toNat then
    memRead s.cfg.fifoDataAddr (chunk s) s fun _ t =>
      .next { t with remain := BitVec.ofNat 16 (t.remain.toNat - chunk t) }
  else
    countRead s fun c t => .next (afterDiscard p c t)

/-- The end of a READ_PACKET step (R96): PACKET_READY with RLEN = P once REMAIN is 0. -/
def packetDone (p : Nat) (s : State) : State :=
  if s.remain = 0 then
    complete p { s with fsm := .packetReady, status := { s.status with pkt := true } }
  else s

/-- A step in READ_PACKET (R96): the next chunk of the packet lands at BUF[IDX]. -/
def packetStep (p : Nat) (s : State) : Out :=
  memRead s.cfg.fifoDataAddr (chunk s) s fun d t =>
    bufStore t.idx.toNat d t fun u =>
      .next (packetDone p { u with idx := BitVec.ofNat 16 (u.idx.toNat + chunk u),
                                   remain := BitVec.ofNat 16 (u.remain.toNat - chunk u) })

/-- FIFO_GET_PACKET (R89 to R97): issue while the engine is not busy, else one step of the reader. -/
def execFifoGetPacket (p : Data) (s : State) : Out :=
  if s.status.busy then
    match s.fsm with
    | .polling => pollStep p.toNat s
    | .waiting => pollStep p.toNat s
    | .drainReset => resetStep s
    | .drainResetWait => resetWaitStep p.toNat s
    | .drainDiscard => discardStep p.toNat s
    | .readPacket => packetStep p.toNat s
    | .idle => .fault .controlMismatch
    | .packetReady => .fault .controlMismatch
    | .timedOut => .fault .controlMismatch
    | .access => .fault .controlMismatch
  else issueChecked (.fifoGetPacket p) startReader s

end Sys2Proof.Machine
end

