-- ==== Sys2Proof/Machine/Dispatch.lean ====
section
/-! DEFINITION. One arm per command: a direct call of its meaning. -/

namespace Sys2Proof.Machine

/-- One step of command `i`: its issue while the engine is not busy, else its next transaction. -/
def exec (i : Instr) (s : State) : Host.Outcome State Fault Refusal :=
  match i with
  -- bit and bit-field commands (R72 to R75)
  | .readBit reg pos => Sys2Proof.Machine.execReadBit reg pos s
  | .writeBit reg pos value => Sys2Proof.Machine.execWriteBit reg pos value s
  | .readBits reg start len => Sys2Proof.Machine.execReadBits reg start len s
  | .writeBits reg start len value => Sys2Proof.Machine.execWriteBits reg start len value s
  -- byte and word commands (R76 to R79)
  | .readByte reg => Sys2Proof.Machine.execReadByte reg s
  | .writeByte reg byte => Sys2Proof.Machine.execWriteByte reg byte s
  | .readWord reg => Sys2Proof.Machine.execReadWord reg s
  | .writeWord reg value => Sys2Proof.Machine.execWriteWord reg value s
  -- word-block and byte-block commands (R80 to R85)
  | .readWords reg n => Sys2Proof.Machine.execReadWords reg n s
  | .writeWords reg n => Sys2Proof.Machine.execWriteWords reg n s
  | .readBytes reg n => Sys2Proof.Machine.execReadBytes reg n s
  | .writeBytes reg n => Sys2Proof.Machine.execWriteBytes reg n s
  | .readBytesS reg n => Sys2Proof.Machine.execReadBytesS reg n s
  | .writeBytesS reg n => Sys2Proof.Machine.execWriteBytesS reg n s
  -- the FIFO packet reader (R89 to R97)
  | .fifoGetPacket p => Sys2Proof.Machine.execFifoGetPacket p s

end Sys2Proof.Machine
end

