-- ==== Sys2Proof/Machine/Port.lean ====
section
/-! DEFINITION. The host port, the clock and the turn of the ENGINE: what each entry of the agenda does
(R10, R22, R26, R29 to R31, R117, R119). The command meanings come in as the argument `run`, which
Step.lean gives as `exec`. -/

namespace Sys2Proof.Machine

/-- The host broke the port protocol: the mark is set and nothing of the engine changes (R29). -/
def protocolFault (s : State) : State := { s with pfault := true }

/-- The host-visible registers by number (R22); a number above 4 names none. -/
def regValue (n : Nat) (s : State) : Option Data :=
  match n with
  | 0 => some s.statusWord
  | 1 => some s.result
  | 2 => some (s.fifocount.setWidth 32)
  | 3 => some (s.cmd.extractLsb' 0 32)
  | 4 => some (s.cmd.extractLsb' 32 32)
  | _ => none

/-- HOST_READ_REG(n) (R31): permitted in every state, no side effect on the engine. -/
def hostReadReg (n : Nat) (s : State) : Out :=
  match regValue n s with
  | some v => .next { s with hostOut := .reg n v :: s.hostOut }
  | none => .next (protocolFault s)

/-- A host write of a register number: one that exists is read-only and keeps its value (R22, R23, R30,
log entry 10); one that does not exist is a protocol fault (R29). -/
def hostWriteReg (n : Nat) (s : State) : Out :=
  match regValue n s with
  | some _ => .next s
  | none => .next (protocolFault s)

/-- HOST_READ_BUF(i) (R31): an index that does not exist is a protocol fault (R29), a byte not written
since reset a fault of the model (R33). -/
def hostReadBuf (i : Nat) (s : State) : Out :=
  if i < s.cfg.bufSize then
    match s.buf.read i with
    | some b => .next { s with hostOut := .buf i b :: s.hostOut }
    | none => .fault .unwrittenBuf
  else .next (protocolFault s)

/-- HOST_WRITE_BUF(i, b) (R30). -/
def hostWriteBuf (i : Nat) (b : Byte) (s : State) : Out :=
  if s.status.busy = false ∧ i < s.cfg.bufSize then .next { s with buf := s.buf.write i b }
  else .next (protocolFault s)

/-- HOST_ISSUE(w) (R26): refused by the protocol while BUSY; else latch, decode, and the command's own
issue. An illegal word raises E_ILLEGAL (R60). -/
def hostIssue (run : Instr → State → Out) (w : Cmd) (s : State) : Out :=
  if s.status.busy then .next (protocolFault s)
  else
    match decode w with
    | .ok i => run i (latch w s)
    | .error _ => .next (raise .illegal 0 (latch w s))

/-- The ENGINE's turn (R10): one step of the latched command while busy, no step otherwise (R21). -/
def engineTurn (run : Instr → State → Out) (s : State) : Out :=
  if s.status.busy then
    match decode s.cmd with
    | .ok i => run i s
    | .error _ => .fault .controlMismatch
  else .next s

/-- The CLOCK: NOW moves on by `d` ticks, never back (R117); the 64-bit value wraps. -/
def clockTick (d : Ticks) (s : State) : State := { s with now := s.now + d }

/-- The clock's advance where the agenda does not give it: a free value (R117, log entry 5). -/
def freeTick (s : State) : State :=
  { s with now := s.now + Config.freeTicks s.draws, draws := s.draws + 1 }

/-- What an entry of the agenda does. -/
def act (run : Instr → State → Out) (e : Event) (s : State) : Out :=
  match e with
  | .issue w => hostIssue run w s
  | .writeBuf i b => hostWriteBuf i b s
  | .readReg n => hostReadReg n s
  | .readBuf i => hostReadBuf i s
  | .writeReg n _ => hostWriteReg n s
  | .reset => .next (resetEngine s)
  | .tick d => .next (clockTick d s)
  | .engine => engineTurn run s

/-- One step: a state with PFAULT = 1 is faulted (R29); else the agenda's next entry acts; with nothing
on the agenda the ENGINE runs on while busy, and an engine that is not busy takes no step (R21). -/
def stepWith (run : Instr → State → Out) (s : State) : Out :=
  if s.pfault then .fault .protocol
  else
    match s.agenda with
    | e :: rest => act run e { s with agenda := rest }
    | [] => if s.status.busy then engineTurn run (freeTick s) else .next s

end Sys2Proof.Machine
end

