-- ==== Sys2Proof/Machine/Step.lean ====
section
/-! DEFINITION. The step of the machine, and where a command word is placed for the next step. -/

namespace Sys2Proof.Machine

/-- One step (R10): see `stepWith`. -/
def step (s : State) : Host.Outcome State Fault Refusal := stepWith exec s

/-- `s` with HOST_ISSUE of the command word `w` as the next thing that happens (log entry 3): the machine
has no program memory, a command comes from the host port. Bits at and above `nbits`, and above the
command's 64 bits, are dropped. -/
def State.withFetchWord (s : State) (nbits w : Nat) : State :=
  { s with agenda := .issue (BitVec.ofNat 64 (w % 2 ^ nbits)) :: s.agenda }

end Sys2Proof.Machine
end

