-- ==== Sys2Proof/Safety.lean ====
section
/-! DEFINITION. What a good state is, in the terms the statements use: each predicate below is meant to
hold of State.reset and to be kept by every step. -/

namespace Sys2Proof.Machine

/-- BUF is in canonical form and holds no index at or above P_BUF_SIZE (R35). -/
def BufOk (s : State) : Prop := s.buf.wf = true ∧ s.buf.below s.cfg.bufSize = true

/-- STATUS agrees with `fsm` (R21, R23) and reports at most one outcome (R98, R112). -/
def StatusOk (s : State) : Prop :=
  s.status.busy = s.fsm.isBusy ∧
  s.status.pkt = decide (s.fsm = .packetReady) ∧
  s.status.timeout = decide (s.fsm = .timedOut) ∧
  (s.status.busy = true → s.status.done = false ∧ s.status.err = .none ∧ s.status.rlen = 0) ∧
  (s.fsm = .packetReady ∨ s.fsm = .timedOut → s.status.done = true) ∧
  (s.fsm = .timedOut → s.status.rlen = 0) ∧
  (s.status.err ≠ .none → s.fsm = .idle ∧ s.status.done = true ∧ s.status.rlen = 0)

/-- The command `i` is latched in CMD and its operands passed the checks of issue (R25, R106). -/
def Running (i : Instr) (s : State) : Prop := decode s.cmd = .ok i ∧ i.wellFormed s.cfg = true

/-- `fsm`, SEQ, REMAIN and IDX fit the command in CMD: an accessor command has transactions left (R68) and
the bytes it takes from BUF are written (R33, R70);
a packet read has read IDX bytes of P and has REMAIN left (R96); a packet that is ready is P bytes long. -/
def ControlOk (s : State) : Prop :=
  match s.fsm with
  | .idle => True
  | .timedOut => True
  | .packetReady => ∃ p, Running (.fifoGetPacket p) s ∧ s.status.rlen.toNat = p.toNat
  | .access => ∃ i, isAccessor i = true ∧ Running i s ∧ s.seq.toNat < transactions i ∧
      sourceWritten i s.buf = true
  | .readPacket => ∃ p, Running (.fifoGetPacket p) s ∧ 0 < s.remain.toNat ∧
      s.idx.toNat + s.remain.toNat = p.toNat
  | .drainReset => ∃ p, Running (.fifoGetPacket p) s ∧ s.seq.toNat ≤ 1
  | .polling => ∃ p, Running (.fifoGetPacket p) s
  | .waiting => ∃ p, Running (.fifoGetPacket p) s
  | .drainResetWait => ∃ p, Running (.fifoGetPacket p) s
  | .drainDiscard => ∃ p, Running (.fifoGetPacket p) s

/-- The states every run from reset stays in. -/
def Inv (s : State) : Prop := s.cfg.Legal ∧ BufOk s ∧ StatusOk s ∧ ControlOk s

end Sys2Proof.Machine
end

