-- ==== Sys2Proof/Certificates/Slice0/Obligations.lean ====
section
/-! DEFINITION. The statements about the machine, for the provers. The first part is the vocabulary they
share: the spec's own updates written out field by field, independent of the model's operations. A state
of the model is meant by "the engine is idle" when STATUS.BUSY = 0. -/

open Sys2Proof Sys2Proof.Machine Host

namespace Sys2Proof.Expect

/-- The transport has answered `req` with `r`: one more transaction on record, one reply used. -/
def answered (req : Request) (r : Reply) (s : State) : State :=
  { s with replies := s.replies.tail, draws := s.draws + 1, bus := { req := req, reply := r } :: s.bus }

/-- `raise e(info)` (R107). -/
def raised (e : ErrCode) (info : Data) (s : State) : State :=
  { s with status := { s.status with err := e, rlen := 0, busy := false, done := true },
           result := info, fsm := .idle }

/-- `complete(n)` of an accessor command (R28). -/
def completed (n : Nat) (s : State) : State :=
  { s with status := { s.status with busy := false, done := true, rlen := BitVec.ofNat 16 n },
           fsm := .idle }

/-- An accessor command has been issued (R26, R27). -/
def started (s : State) : State :=
  { s with status := { s.status with busy := true }, fsm := .access, seq := 0 }

/-- FIFO_GET_PACKET has been issued (R26, R89). -/
def readerStarted (s : State) : State :=
  { s with status := { s.status with busy := true }, t0 := s.now, fifocount := 0, fsm := .polling }

/-- CMD latched and the outcome of the last command cleared (R26). -/
def latched (w : Cmd) (s : State) : State :=
  { s with cmd := w, result := 0,
           status := { s.status with done := false, err := .none, ovf := false, drained := false,
                                     timeout := false, pkt := false, rlen := 0 } }

/-- `Expired()` (R91). -/
def Expired (s : State) : Prop := (s.now - s.t0).toNat > s.cfg.timeout.toNat

/-- The empty result (R91). -/
def timedOut (s : State) : State :=
  { s with fsm := .timedOut,
           status := { s.status with timeout := true, busy := false, done := true, rlen := 0 } }

/-- `REMAIN <- P; IDX <- 0; fsm <- READ_PACKET` (R92). -/
def readingPacket (p : Data) (s : State) : State :=
  { s with remain := BitVec.ofNat 16 p.toNat, idx := 0, fsm := .readPacket }

/-- The engine executes `i` in ACCESS. -/
def InAccess (s : State) : Prop := s.status.busy = true ∧ s.fsm = .access

/-- The reader is in control state `f`. -/
def InReader (f : Fsm) (s : State) : Prop := s.status.busy = true ∧ s.fsm = f

/-- The count two delivered bytes stand for, high byte first (R41, R90). -/
def count (hi lo : Byte) : Nat := hi.toNat * 256 + lo.toNat

/-- The illegal command words of R60, (a) to (e). -/
def Illegal (w : Cmd) : Prop :=
  fieldOp w = 0 ∨ fieldRsvd w ≠ 0 ∨
  (fieldLen w ≠ 0 ∧ fieldOp w ≠ 3 ∧ fieldOp w ≠ 4) ∨
  (fieldStart w ≠ 0 ∧ 5 ≤ (fieldOp w).toNat) ∨
  (fieldData w ≠ 0 ∧ (fieldOp w = 1 ∨ fieldOp w = 3 ∨ fieldOp w = 5 ∨ fieldOp w = 7)) ∨
  (fieldReg w ≠ 0 ∧ fieldOp w = 15) ∨
  (fieldOp w = 2 ∧ (fieldData w).extractLsb' 1 31 ≠ 0) ∨
  (fieldOp w = 6 ∧ (fieldData w).extractLsb' 8 24 ≠ 0)

/-- E_FIELD's condition (R61). -/
def FieldBad : Instr → Prop
  | .readBits _ start len => len.toNat > 8 ∨ len.toNat > start.toNat + 1
  | .writeBits _ start len _ => len.toNat > 8 ∨ len.toNat > start.toNat + 1
  | _ => False

/-- E_LENGTH's condition (R62). -/
def LengthBad (p : Params) : Instr → Prop
  | .readWords _ n => ¬(1 ≤ n.toNat ∧ n.toNat ≤ p.bufSize / 2)
  | .writeWords _ n => ¬(1 ≤ n.toNat ∧ n.toNat ≤ p.bufSize / 2)
  | .readBytes _ n => ¬(1 ≤ n.toNat ∧ n.toNat ≤ p.maxBlock)
  | .writeBytes _ n => ¬(1 ≤ n.toNat ∧ n.toNat ≤ p.maxBlock)
  | .readBytesS _ n => ¬(1 ≤ n.toNat ∧ n.toNat ≤ p.bufSize)
  | .writeBytesS _ n => ¬(1 ≤ n.toNat ∧ n.toNat ≤ p.bufSize)
  | .fifoGetPacket n => ¬(1 ≤ n.toNat ∧ n.toNat ≤ p.bufSize)
  | _ => False

/-- E_ADDR's condition (R63). -/
def AddrBad : Instr → Prop
  | .readWord reg => reg.toNat + 2 - 1 > 0xFF
  | .writeWord reg _ => reg.toNat + 2 - 1 > 0xFF
  | .readWords reg n => reg.toNat + 2 * n.toNat - 1 > 0xFF
  | .writeWords reg n => reg.toNat + 2 * n.toNat - 1 > 0xFF
  | .readBytes reg n => reg.toNat + n.toNat - 1 > 0xFF
  | .writeBytes reg n => reg.toNat + n.toNat - 1 > 0xFF
  | .readBytesS reg n => reg.toNat + n.toNat - 1 > 0xFF
  | .writeBytesS reg n => reg.toNat + n.toNat - 1 > 0xFF
  | _ => False

/-- E_RANGE's condition (R64). -/
def RangeBad : Instr → Prop
  | .writeWord _ v => v.toInt < 0 ∨ v.toInt > 0xFFFF
  | _ => False

/-- What a command that passes every check of issue becomes (R26, R27, R89). -/
def begun (i : Instr) (s : State) : State :=
  match i with
  | .fifoGetPacket _ => readerStarted s
  | _ => started s

/-- The next transaction is not cut by the reset input. -/
def NotCut (s : State) : Prop := ∀ b, s.replies.head? ≠ some (.cutByReset b)

/-- The bytes WRITE_WORDS, WRITE_BYTES and WRITE_BYTES_S take from BUF have all been written since reset
(R70); the other commands take none. -/
def SourceWritten (i : Instr) (s : State) : Prop :=
  match i with
  | .writeWords _ n => ∀ j, j < 2 * n.toNat → (s.buf.read j).isSome = true
  | .writeBytes _ n => ∀ j, j < n.toNat → (s.buf.read j).isSome = true
  | .writeBytesS _ n => ∀ j, j < n.toNat → (s.buf.read j).isSome = true
  | _ => True

/-- `BUF[i], ..., BUF[i + n - 1]`, where every one of them has been written. -/
def bufBytes (s : State) (i n : Nat) : List Byte :=
  (List.range n).map fun j => (s.buf.read (i + j)).getD 0

/-- The transaction the rules give a running command next: its kind, register address and bytes (R72 to
R85, R90, R93, R95, R96). -/
def nextRequest (i : Instr) (s : State) : Request :=
  match i with
  | .readBit reg _ => .readByte reg
  | .writeBit reg pos x =>
    if s.seq = 0 then .readByte reg
    else .writeByte reg
      (if x then s.tmp ||| (1#8 <<< pos.toNat) else s.tmp &&& ~~~(1#8 <<< pos.toNat))
  | .readBits reg _ _ => .readByte reg
  | .writeBits reg start len v =>
    if s.seq = 0 then .readByte reg
    else .writeByte reg
      ((s.tmp &&& ~~~BitVec.ofNat 8 (((1 <<< len.toNat) - 1) <<< (start.toNat + 1 - len.toNat))) |||
        (BitVec.ofNat 8 (v.toNat <<< (start.toNat + 1 - len.toNat)) &&&
          BitVec.ofNat 8 (((1 <<< len.toNat) - 1) <<< (start.toNat + 1 - len.toNat))))
  | .readByte reg => .readByte reg
  | .writeByte reg b => .writeByte reg b
  | .readWord reg => .read reg 2
  | .writeWord reg v => .write reg [v.extractLsb' 8 8, v.extractLsb' 0 8]
  | .readWords reg _ => .read (BitVec.ofNat 8 (reg.toNat + 2 * s.seq.toNat)) 2
  | .writeWords reg _ =>
    .write (BitVec.ofNat 8 (reg.toNat + 2 * s.seq.toNat)) (bufBytes s (2 * s.seq.toNat) 2)
  | .readBytes reg n => .read reg n.toNat
  | .writeBytes reg n => .write reg (bufBytes s 0 n.toNat)
  | .readBytesS reg _ => .readByte (BitVec.ofNat 8 (reg.toNat + s.seq.toNat))
  | .writeBytesS reg _ =>
    .writeByte (BitVec.ofNat 8 (reg.toNat + s.seq.toNat)) ((s.buf.read s.seq.toNat).getD 0)
  | .fifoGetPacket _ =>
    match s.fsm with
    | .drainReset =>
      if s.seq = 0 then .readByte s.cfg.fifoResetReg
      else .writeByte s.cfg.fifoResetReg (s.tmp ||| (1#8 <<< s.cfg.fifoResetBit.toNat))
    | .drainDiscard =>
      if 0 < s.remain.toNat then .read s.cfg.fifoDataAddr (min s.remain.toNat s.cfg.maxBlock)
      else .read s.cfg.fifoCountAddr 2
    | .readPacket => .read s.cfg.fifoDataAddr (min s.remain.toNat s.cfg.maxBlock)
    | _ => .read s.cfg.fifoCountAddr 2

/-- The ENGINE's turn comes next, and `s0` is the state it acts on: the agenda says so, or it is empty and
the clock has moved on by a free value (log entries 2 and 5). -/
def EngineTurn (s s0 : State) : Prop :=
  (∃ rest, s.agenda = .engine :: rest ∧ s0 = { s with agenda := rest }) ∨
  (s.agenda = [] ∧ s0 = { s with now := s.now + Config.freeTicks s.draws, draws := s.draws + 1 })

/-- The outcome with the clock input showing `n` instead. -/
def withNow (n : Ticks) : Out → Out
  | .next t => .next { t with now := n }
  | .fault f => .fault f
  | .refused r => .refused r

/-- What a command ends with after its transaction `k` of `n` (R68). -/
def afterTransaction (k n rlen : Nat) (s : State) : State :=
  if k + 1 = n then completed rlen { s with seq := s.seq + 1 } else { s with seq := s.seq + 1 }

end Sys2Proof.Expect

open Sys2Proof.Expect

/-! ### Encoding -/

/-- R67: the worked encodings decode to the commands they stand for, and the fourth raises E_RANGE. -/
def Obligations.WorkedEncodingsDecode : Prop :=
  decode 0x46A1C00000000001 = .ok (.writeBits 0x6A 6 1 1) ∧
  decode 0x26A0400000000001 = .ok (.writeBit 0x6A 2 true) ∧
  decode 0x31A3400000000000 = .ok (.readBits 0x1A 2 3) ∧
  decode 0x81300000FFFFFFFF = .ok (.writeWord 0x13 0xFFFFFFFF) ∧
  (∀ s : State, s.status.busy = false →
    exec (.writeWord 0x13 0xFFFFFFFF) s = .next (raised .range 0 s)) ∧
  decode 0xF00000000000001C = .ok (.fifoGetPacket 28)

/-- Decoding an encoded command gives it back, for every command and every operand its fields admit. -/
def Obligations.DecodeOfEncodeIsTheCommand : Prop :=
  ∀ i : Instr, decode (encode i) = .ok i

/-- Every legal word is the encoding of what it decodes to: a word has one meaning, and no bit of it is
dropped. -/
def Obligations.EncodeOfDecodeIsTheWord : Prop :=
  ∀ (w : Cmd) (i : Instr), decode w = .ok i → encode i = w

/-- R60: the illegal words are those of (a) to (e), they are exactly the words no row of the opcode table
matches, and issue answers each with E_ILLEGAL and no transaction. -/
def Obligations.IllegalWordsRaiseIllegal : Prop :=
  ∀ w : Cmd,
    (Illegal w ↔ ∀ r ∈ opcodeTable, w &&& r.mask ≠ r.pattern) ∧
    ((∃ i, decode w = .ok i) ↔ ¬ Illegal w) ∧
    ∀ (s : State) (rest : List Event), s.pfault = false → s.status.busy = false →
      s.agenda = .issue w :: rest → Illegal w →
      step s = .next (raised .illegal 0 (latched w { s with agenda := rest }))

/-! ### The step -/

/-- A command word placed for the next step runs the command it decodes to, on the state issue has
latched it in (R26). -/
def Obligations.IssueStepRunsTheDecodedCommand : Prop :=
  ∀ (s : State) (w : Cmd) (i : Instr), s.pfault = false → s.status.busy = false → decode w = .ok i →
    step (s.withFetchWord 64 w.toNat) = exec i (latched w s)

/-- The ENGINE's turn runs one step of the command latched in CMD (R10, R20): when the agenda says so, and
when the agenda is empty, the clock having moved on by a free value. -/
def Obligations.EngineStepRunsTheLatchedCommand : Prop :=
  ∀ (s : State) (i : Instr), s.pfault = false → s.status.busy = true → decode s.cmd = .ok i →
    (∀ rest, s.agenda = .engine :: rest → step s = exec i { s with agenda := rest }) ∧
    (s.agenda = [] →
      step s = exec i { s with now := s.now + Config.freeTicks s.draws, draws := s.draws + 1 })

/-- R26: HOST_ISSUE(w). While BUSY it only sets PFAULT; else it latches and clears, raises what a failing
check raises, or starts the command. (A command that passes the checks but was issued over a BUF byte never
written since reset: IssueOverUnwrittenBytesFaults.) -/
def Obligations.HostIssueLatchesChecksAndStarts : Prop :=
  ∀ (s : State) (w : Cmd) (rest : List Event), s.pfault = false → s.agenda = .issue w :: rest →
    (s.status.busy = true → step s = .next { s with agenda := rest, pfault := true }) ∧
    (s.status.busy = false → ∀ r, decode w = .error r →
      step s = .next (raised .illegal 0 (latched w { s with agenda := rest }))) ∧
    (s.status.busy = false → ∀ i, decode w = .ok i → i.wellFormed s.cfg = true → SourceWritten i s →
      step s = .next (begun i (latched w { s with agenda := rest }))) ∧
    (s.status.busy = false → ∀ i, decode w = .ok i → i.wellFormed s.cfg = false →
      ∃ e, e ≠ .none ∧ e ≠ .transport ∧
        step s = .next (raised e 0 (latched w { s with agenda := rest })))

/-- R106: the checks of issue run in the order E_ILLEGAL, E_FIELD, E_LENGTH, E_ADDR, E_RANGE; the first
that fails is raised and no transaction is issued; a command that passes all of them starts. (One issued
over a BUF byte never written since reset: IssueOverUnwrittenBytesFaults.) -/
def Obligations.IssueChecksRunInOrder : Prop :=
  ∀ (s : State) (w : Cmd) (rest : List Event), s.pfault = false → s.status.busy = false →
    s.agenda = .issue w :: rest →
    (Illegal w → step s = .next (raised .illegal 0 (latched w { s with agenda := rest }))) ∧
    ∀ i, decode w = .ok i →
      (FieldBad i → step s = .next (raised .field 0 (latched w { s with agenda := rest }))) ∧
      (¬FieldBad i → LengthBad s.cfg i →
        step s = .next (raised .length 0 (latched w { s with agenda := rest }))) ∧
      (¬FieldBad i → ¬LengthBad s.cfg i → AddrBad i →
        step s = .next (raised .addr 0 (latched w { s with agenda := rest }))) ∧
      (¬FieldBad i → ¬LengthBad s.cfg i → ¬AddrBad i → RangeBad i →
        step s = .next (raised .range 0 (latched w { s with agenda := rest }))) ∧
      (¬FieldBad i → ¬LengthBad s.cfg i → ¬AddrBad i → ¬RangeBad i → SourceWritten i s →
        step s = .next (begun i (latched w { s with agenda := rest })))

/-- R61: a bit field outside one byte raises E_FIELD; every other field, the empty one included, and every
bit position starts the command. -/
def Obligations.FieldOutsideOneByteRaisesField : Prop :=
  ∀ (reg : RegAddr) (start : BitVec 3) (len : BitVec 4) (v : Data) (s : State), s.status.busy = false →
    (len.toNat > 8 ∨ len.toNat > start.toNat + 1 →
      exec (.readBits reg start len) s = .next (raised .field 0 s) ∧
      exec (.writeBits reg start len v) s = .next (raised .field 0 s)) ∧
    (len.toNat ≤ 8 → len.toNat ≤ start.toNat + 1 →
      exec (.readBits reg start len) s = .next (started s) ∧
      exec (.writeBits reg start len v) s = .next (started s)) ∧
    (∀ (pos : BitVec 3) (x : Bool), exec (.readBit reg pos) s = .next (started s) ∧
      exec (.writeBit reg pos x) s = .next (started s))

/-- R62: a count outside its range raises E_LENGTH. -/
def Obligations.CountOutOfRangeRaisesLength : Prop :=
  ∀ (reg : RegAddr) (n : Data) (s : State), s.status.busy = false →
    (¬(1 ≤ n.toNat ∧ n.toNat ≤ s.cfg.bufSize / 2) →
      exec (.readWords reg n) s = .next (raised .length 0 s) ∧
      exec (.writeWords reg n) s = .next (raised .length 0 s)) ∧
    (¬(1 ≤ n.toNat ∧ n.toNat ≤ s.cfg.maxBlock) →
      exec (.readBytes reg n) s = .next (raised .length 0 s) ∧
      exec (.writeBytes reg n) s = .next (raised .length 0 s)) ∧
    (¬(1 ≤ n.toNat ∧ n.toNat ≤ s.cfg.bufSize) →
      exec (.readBytesS reg n) s = .next (raised .length 0 s) ∧
      exec (.writeBytesS reg n) s = .next (raised .length 0 s) ∧
      exec (.fifoGetPacket n) s = .next (raised .length 0 s))

/-- R63: a register span past 0xFF raises E_ADDR (where the count is in its range, R106); the commands
that address one register cannot fail this check. -/
def Obligations.SpanPastTheLastRegisterRaisesAddr : Prop :=
  ∀ (reg : RegAddr) (n v : Data) (s : State), s.status.busy = false →
    (reg.toNat + 2 - 1 > 0xFF →
      exec (.readWord reg) s = .next (raised .addr 0 s) ∧
      exec (.writeWord reg v) s = .next (raised .addr 0 s)) ∧
    (1 ≤ n.toNat → n.toNat ≤ s.cfg.bufSize / 2 → reg.toNat + 2 * n.toNat - 1 > 0xFF →
      exec (.readWords reg n) s = .next (raised .addr 0 s) ∧
      exec (.writeWords reg n) s = .next (raised .addr 0 s)) ∧
    (1 ≤ n.toNat → n.toNat ≤ s.cfg.maxBlock → reg.toNat + n.toNat - 1 > 0xFF →
      exec (.readBytes reg n) s = .next (raised .addr 0 s) ∧
      exec (.writeBytes reg n) s = .next (raised .addr 0 s)) ∧
    (1 ≤ n.toNat → n.toNat ≤ s.cfg.bufSize → reg.toNat + n.toNat - 1 > 0xFF →
      exec (.readBytesS reg n) s = .next (raised .addr 0 s) ∧
      exec (.writeBytesS reg n) s = .next (raised .addr 0 s)) ∧
    (∀ (pos : BitVec 3) (len : BitVec 4) (x : Bool) (b : Byte) (i : Instr),
      i ∈ [Instr.readBit reg pos, .writeBit reg pos x, .readBits reg pos len, .writeBits reg pos len v,
        .readByte reg, .writeByte reg b, .fifoGetPacket n] →
      exec i s ≠ .next (raised .addr 0 s))

/-- R64: WRITE_WORD of a value outside [0, 0xFFFF] raises E_RANGE before any transaction; a value inside
it starts. (At register 0xFF the earlier check raises E_ADDR, R106.) -/
def Obligations.WordOutsideItsRangeRaisesRange : Prop :=
  ∀ (reg : RegAddr) (v : Data) (s : State), s.status.busy = false → reg.toNat + 2 - 1 ≤ 0xFF →
    (v.toInt < 0 ∨ v.toInt > 0xFFFF → exec (.writeWord reg v) s = .next (raised .range 0 s)) ∧
    (0 ≤ v.toInt → v.toInt ≤ 0xFFFF → exec (.writeWord reg v) s = .next (started s))

/-- R27: an accessor command that passed its checks enters ACCESS with SEQ = 0, and nothing else of the
engine changes. (Where a byte it takes from BUF is unwritten: IssueOverUnwrittenBytesFaults.) -/
def Obligations.AccessorIssueEntersAccess : Prop :=
  ∀ (i : Instr) (s : State), isAccessor i = true → i.wellFormed s.cfg = true → SourceWritten i s →
    s.status.busy = false →
    exec i s = .next { s with status := { s.status with busy := true }, fsm := .access, seq := 0 }

/-- WRITE_WORDS, WRITE_BYTES and WRITE_BYTES_S that pass their checks fault the run when they are issued
over a BUF byte never written since reset, whichever byte it is (R33, R70, D37, I8), and so does the
host's issue of such a command; that the run stops at the issue is log entry 8's. -/
def Obligations.IssueOverUnwrittenBytesFaults : Prop :=
  (∀ (reg : RegAddr) (n : Data) (s : State) (j : Nat), s.status.busy = false → s.buf.read j = none →
    (j < 2 * n.toNat → (Instr.writeWords reg n).wellFormed s.cfg = true →
      exec (.writeWords reg n) s = .fault .unwrittenBuf) ∧
    (j < n.toNat → (Instr.writeBytes reg n).wellFormed s.cfg = true →
      exec (.writeBytes reg n) s = .fault .unwrittenBuf) ∧
    (j < n.toNat → (Instr.writeBytesS reg n).wellFormed s.cfg = true →
      exec (.writeBytesS reg n) s = .fault .unwrittenBuf)) ∧
  (∀ (s : State) (w : Cmd) (rest : List Event) (i : Instr), s.pfault = false → s.status.busy = false →
    s.agenda = .issue w :: rest → decode w = .ok i → i.wellFormed s.cfg = true → ¬SourceWritten i s →
    step s = .fault .unwrittenBuf)

/-- FIFO_GET_PACKET of a packet size in range starts the one deadline of the operation, zeroes FIFOCOUNT
and enters POLLING (R89). -/
def Obligations.ReaderIssueCapturesTheDeadline : Prop :=
  ∀ (p : Data) (s : State), s.status.busy = false → 1 ≤ p.toNat → p.toNat ≤ s.cfg.bufSize →
    exec (.fifoGetPacket p) s =
      .next { s with status := { s.status with busy := true }, t0 := s.now, fifocount := 0,
                     fsm := .polling }

/-! ### Bit and bit-field commands -/

/-- R69: the mask is the formula's, its complement `0xFF - mask`, its set bits are exactly bits START down
to lsb, and the one-bit mask is bit START. -/
def Obligations.MaskBitsAreTheField : Prop :=
  ∀ (start : BitVec 3) (len : BitVec 4), len.toNat ≤ 8 → len.toNat ≤ start.toNat + 1 →
    fieldMask start len = BitVec.ofNat 8 (((1 <<< len.toNat) - 1) <<< (start.toNat + 1 - len.toNat)) ∧
    ~~~fieldMask start len = 0xFF - fieldMask start len ∧
    ∀ k, k < 8 →
      ((fieldMask start len).getLsbD k = true ↔
        start.toNat + 1 - len.toNat ≤ k ∧ k ≤ start.toNat) ∧
      ((bitMask start).getLsbD k = true ↔ k = start.toNat)

/-- READ_BIT (R72): one byte read; RESULT is bit START of it; RLEN = 0; nothing else changes. -/
def Obligations.ReadBitResult : Prop :=
  ∀ (reg : RegAddr) (pos : BitVec 3) (s : State) (b : Byte), InAccess s →
    replyTo (.readByte reg) s = .ok [b] →
    exec (.readBit reg pos) s = .next (completed 0
      { answered (.readByte reg) (.ok [b]) s with
        seq := s.seq + 1, result := if b.getLsbD pos.toNat then 1 else 0 })

/-- WRITE_BIT (R73): the read puts the byte into TMP; the write sends TMP with bit START set or cleared,
which is also RESULT; nothing else changes. -/
def Obligations.WriteBitReadsThenWrites : Prop :=
  ∀ (reg : RegAddr) (pos : BitVec 3) (x : Bool) (s : State), InAccess s →
    (∀ b, s.seq = 0 → replyTo (.readByte reg) s = .ok [b] →
      exec (.writeBit reg pos x) s =
        .next { answered (.readByte reg) (.ok [b]) s with seq := 1, tmp := b }) ∧
    (∀ nb : Byte, nb = (if x then s.tmp ||| (1#8 <<< pos.toNat) else s.tmp &&& ~~~(1#8 <<< pos.toNat)) →
      s.seq = 1 → replyTo (.writeByte reg nb) s = .ok [] →
      exec (.writeBit reg pos x) s = .next (completed 0
        { answered (.writeByte reg nb) (.ok []) s with seq := 2, result := nb.setWidth 32 }))

/-- READ_BITS (R74): one byte read; RESULT is the field, the bits START down to START - LEN + 1. -/
def Obligations.ReadBitsResult : Prop :=
  ∀ (reg : RegAddr) (start : BitVec 3) (len : BitVec 4) (s : State) (b : Byte), InAccess s →
    len.toNat ≤ 8 → len.toNat ≤ start.toNat + 1 → replyTo (.readByte reg) s = .ok [b] →
    exec (.readBits reg start len) s = .next (completed 0
      { answered (.readByte reg) (.ok [b]) s with
        seq := s.seq + 1,
        result := BitVec.ofNat 32 (b.toNat / 2 ^ (start.toNat + 1 - len.toNat) % 2 ^ len.toNat) })

/-- WRITE_BITS (R75): the read puts the byte into TMP; the write sends TMP with the field replaced by the
low LEN bits of DATA; the byte written is also RESULT. -/
def Obligations.WriteBitsReadsThenWrites : Prop :=
  ∀ (reg : RegAddr) (start : BitVec 3) (len : BitVec 4) (v : Data) (s : State), InAccess s →
    (∀ b, s.seq = 0 → replyTo (.readByte reg) s = .ok [b] →
      exec (.writeBits reg start len v) s =
        .next { answered (.readByte reg) (.ok [b]) s with seq := 1, tmp := b }) ∧
    (∀ mask nb : Byte,
      mask = BitVec.ofNat 8 (((1 <<< len.toNat) - 1) <<< (start.toNat + 1 - len.toNat)) →
      nb = (s.tmp &&& ~~~mask) |||
        (BitVec.ofNat 8 (v.toNat <<< (start.toNat + 1 - len.toNat)) &&& mask) →
      s.seq = 1 → replyTo (.writeByte reg nb) s = .ok [] →
      exec (.writeBits reg start len v) s = .next (completed 0
        { answered (.writeByte reg nb) (.ok []) s with seq := 2, result := nb.setWidth 32 }))

/-- R87: the byte WRITE_BITS or WRITE_BIT writes differs from the byte read only inside the mask, and a
following READ_BITS or READ_BIT that is answered with that byte returns the value written. -/
def Obligations.FieldWriteReadsBack : Prop :=
  ∀ (reg : RegAddr) (start : BitVec 3) (len : BitVec 4) (v : Data) (x : Bool) (s u : State),
    InAccess s → s.seq = 1 → NotCut s → s.replies.head? ≠ some .error → s.replies ≠ [] → InAccess u →
    (len.toNat ≤ 8 → len.toNat ≤ start.toNat + 1 →
      ∃ nb t, exec (.writeBits reg start len v) s = .next t ∧
        t.bus.head? = some ⟨.writeByte reg nb, .ok []⟩ ∧
        (nb ^^^ s.tmp) &&& ~~~(fieldMask start len) = 0 ∧
        nb &&& fieldMask start len =
          BitVec.ofNat 8 ((v.toNat % 2 ^ len.toNat) <<< (start.toNat + 1 - len.toNat)) ∧
        (replyTo (.readByte reg) u = .ok [nb] →
          ∃ t', exec (.readBits reg start len) u = .next t' ∧
            t'.result.toNat = v.toNat % 2 ^ len.toNat)) ∧
    (∃ nb t, exec (.writeBit reg start x) s = .next t ∧
        t.bus.head? = some ⟨.writeByte reg nb, .ok []⟩ ∧
        (nb ^^^ s.tmp) &&& ~~~(bitMask start) = 0 ∧ nb.getLsbD start.toNat = x ∧
        (replyTo (.readByte reg) u = .ok [nb] →
          ∃ t', exec (.readBit reg start) u = .next t' ∧ t'.result = if x then 1 else 0))

/-! ### Byte and word commands -/

/-- READ_BYTE passes the byte read through to RESULT, and WRITE_BYTE issues one byte write and no read
(R76, R77); nothing else changes. -/
def Obligations.ByteTransferResults : Prop :=
  ∀ (reg : RegAddr) (b : Byte) (s : State), InAccess s →
    (replyTo (.readByte reg) s = .ok [b] →
      exec (.readByte reg) s = .next (completed 0
        { answered (.readByte reg) (.ok [b]) s with seq := s.seq + 1, result := b.setWidth 32 })) ∧
    (replyTo (.writeByte reg b) s = .ok [] →
      exec (.writeByte reg b) s = .next (completed 0
        { answered (.writeByte reg b) (.ok []) s with seq := s.seq + 1 }))

/-- READ_WORD is one 2-byte block read, big-endian, RESULT unsigned; WRITE_WORD is one 2-byte block write,
`DATA[15:8]` first (R78, R79); nothing else changes. -/
def Obligations.WordTransferResults : Prop :=
  ∀ (reg : RegAddr) (v : Data) (hi lo : Byte) (w : List Byte) (s : State), InAccess s →
    (replyTo (.read reg 2) s = .ok [hi, lo] →
      exec (.readWord reg) s = .next (completed 0
        { answered (.read reg 2) (.ok [hi, lo]) s with
          seq := s.seq + 1, result := BitVec.ofNat 32 (hi.toNat * 256 + lo.toNat) })) ∧
    (w = [v.extractLsb' 8 8, v.extractLsb' 0 8] → replyTo (.write reg w) s = .ok [] →
      exec (.writeWord reg v) s = .next (completed 0
        { answered (.write reg w) (.ok []) s with seq := s.seq + 1 }))

/-! ### Word-block and byte-block commands -/

/-- READ_WORDS (R80): transaction SEQ reads word SEQ into BUF[2*SEQ], BUF[2*SEQ+1] and nothing else of BUF
changes; the last one completes with RLEN = 2n. -/
def Obligations.ReadWordsStoresOneWordAStep : Prop :=
  ∀ (reg : RegAddr) (n : Data) (s : State) (k : Nat) (a : RegAddr) (hi lo : Byte), InAccess s →
    s.seq.toNat = k → k < n.toNat → n.toNat ≤ s.cfg.bufSize / 2 →
    a = BitVec.ofNat 8 (reg.toNat + 2 * k) → replyTo (.read a 2) s = .ok [hi, lo] →
    ∃ m : Memory, m.read (2 * k) = some hi ∧ m.read (2 * k + 1) = some lo ∧
      (∀ j, j ≠ 2 * k → j ≠ 2 * k + 1 → m.read j = s.buf.read j) ∧
      exec (.readWords reg n) s = .next (afterTransaction k n.toNat (2 * n.toNat)
        { answered (.read a 2) (.ok [hi, lo]) s with buf := m })

/-- WRITE_WORDS (R81): transaction SEQ writes BUF[2*SEQ], BUF[2*SEQ+1] as one block; the last one
completes with RLEN = 0. A byte not written since reset faults the run instead (R70), also in the states
that the check at issue keeps every run out of. -/
def Obligations.WriteWordsSendsOneWordAStep : Prop :=
  ∀ (reg : RegAddr) (n : Data) (s : State) (k : Nat) (a : RegAddr), InAccess s →
    s.seq.toNat = k → k < n.toNat → a = BitVec.ofNat 8 (reg.toNat + 2 * k) →
    (∀ hi lo, s.buf.read (2 * k) = some hi → s.buf.read (2 * k + 1) = some lo →
      replyTo (.write a [hi, lo]) s = .ok [] →
      exec (.writeWords reg n) s = .next (afterTransaction k n.toNat 0
        (answered (.write a [hi, lo]) (.ok []) s))) ∧
    (s.buf.read (2 * k) = none ∨ s.buf.read (2 * k + 1) = none →
      exec (.writeWords reg n) s = .fault .unwrittenBuf)

/-- READ_BYTES (R82): one block read of n bytes into BUF[0 .. n-1]; RLEN = n. -/
def Obligations.ReadBytesFillsTheBuffer : Prop :=
  ∀ (reg : RegAddr) (n : Data) (s : State) (d : List Byte), InAccess s →
    n.toNat ≤ s.cfg.bufSize → replyTo (.read reg n.toNat) s = .ok d →
    ∃ m : Memory, (∀ j, j < n.toNat → m.read j = d[j]?) ∧
      (∀ j, n.toNat ≤ j → m.read j = s.buf.read j) ∧
      exec (.readBytes reg n) s = .next (completed n.toNat
        { answered (.read reg n.toNat) (.ok d) s with seq := s.seq + 1, buf := m })

/-- WRITE_BYTES (R83): one block write of BUF[0 .. n-1]; a byte not written since reset faults the run
instead (R70), also in the states that the check at issue keeps every run out of. -/
def Obligations.WriteBytesSendsTheBuffer : Prop :=
  ∀ (reg : RegAddr) (n : Data) (s : State), InAccess s →
    (∀ w : List Byte, w.length = n.toNat → (∀ j, j < n.toNat → s.buf.read j = w[j]?) →
      replyTo (.write reg w) s = .ok [] →
      exec (.writeBytes reg n) s = .next (completed 0
        { answered (.write reg w) (.ok []) s with seq := s.seq + 1 })) ∧
    ((∃ j, j < n.toNat ∧ s.buf.read j = none) → exec (.writeBytes reg n) s = .fault .unwrittenBuf)

/-- READ_BYTES_S (R84): transaction SEQ reads register REG + SEQ into BUF[SEQ]; the last one completes
with RLEN = n. -/
def Obligations.ReadBytesSStoresOneByteAStep : Prop :=
  ∀ (reg : RegAddr) (n : Data) (s : State) (k : Nat) (a : RegAddr) (b : Byte), InAccess s →
    s.seq.toNat = k → k < n.toNat → n.toNat ≤ s.cfg.bufSize →
    a = BitVec.ofNat 8 (reg.toNat + k) → replyTo (.readByte a) s = .ok [b] →
    ∃ m : Memory, m.read k = some b ∧ (∀ j, j ≠ k → m.read j = s.buf.read j) ∧
      exec (.readBytesS reg n) s = .next (afterTransaction k n.toNat n.toNat
        { answered (.readByte a) (.ok [b]) s with buf := m })

/-- WRITE_BYTES_S (R85): transaction SEQ writes BUF[SEQ] to register REG + SEQ; a byte not written since
reset faults the run instead (R70), also in the states that the check at issue keeps every run out of. -/
def Obligations.WriteBytesSSendsOneByteAStep : Prop :=
  ∀ (reg : RegAddr) (n : Data) (s : State) (k : Nat) (a : RegAddr), InAccess s →
    s.seq.toNat = k → k < n.toNat → a = BitVec.ofNat 8 (reg.toNat + k) →
    (∀ b, s.buf.read k = some b → replyTo (.writeByte a b) s = .ok [] →
      exec (.writeBytesS reg n) s = .next (afterTransaction k n.toNat 0
        (answered (.writeByte a b) (.ok []) s))) ∧
    (s.buf.read k = none → exec (.writeBytesS reg n) s = .fault .unwrittenBuf)

/-- An accessor command changes nothing but `fsm`, SEQ, TMP (WRITE_BIT and WRITE_BITS), RESULT, STATUS and,
for READ_WORDS, READ_BYTES and READ_BYTES_S, BUF (R71); its outcome flags OVF, DRAINED, TIMEOUT and PKT
stay, and what it does not depend on is the clock (R117). -/
def Obligations.AccessorStepFrame : Prop :=
  ∀ (i : Instr) (s t : State), isAccessor i = true → s.status.busy = true → NotCut s →
    exec i s = .next t →
    t = { s with fsm := t.fsm, seq := t.seq, tmp := t.tmp, result := t.result, buf := t.buf,
                 status := { s.status with busy := t.status.busy, done := t.status.done,
                                           err := t.status.err, rlen := t.status.rlen },
                 replies := t.replies, draws := t.draws, bus := t.bus } ∧
    ((∀ reg n, i ≠ .readWords reg n ∧ i ≠ .readBytes reg n ∧ i ≠ .readBytesS reg n) → t.buf = s.buf) ∧
    ((∀ reg pos x, i ≠ .writeBit reg pos x) → (∀ reg pos len v, i ≠ .writeBits reg pos len v) →
      t.tmp = s.tmp)

/-- No accessor command reads the clock: with NOW showing another value it does the same (R117). -/
def Obligations.AccessorIgnoresTheClock : Prop :=
  ∀ (i : Instr) (s : State) (n : Ticks), isAccessor i = true →
    exec i { s with now := n } = withNow n (exec i s)

/-- A whole accessor command, from the states after its issue: with every transaction answered it is busy
for exactly its k transactions, issues exactly k, and then has ended without an error (R68). Of BUF the
invariant asks only the bytes that WRITE_WORDS, WRITE_BYTES and WRITE_BYTES_S take. -/
def Obligations.AccessorTakesExactlyItsTransactions : Prop :=
  ∀ (i : Instr) (s : State) (rest : List Event), Inv s → s.pfault = false → s.fsm = .access →
    s.seq = 0 → decode s.cmd = .ok i →
    s.agenda = List.replicate (transactions i) .engine ++ rest →
    transactions i ≤ s.replies.length → (∀ r ∈ s.replies, ∃ d, r = .ok d) →
    (∀ k, k < transactions i → ∃ u, Host.Core.run core k s = .next u ∧ u.status.busy = true ∧
      u.bus.length = s.bus.length + k) ∧
    ∃ t, Host.Core.run core (transactions i) s = .next t ∧ t.status.busy = false ∧
      t.status.done = true ∧ t.status.err = .none ∧ t.fsm = .idle ∧ t.agenda = rest ∧
      t.bus.length = s.bus.length + transactions i

/-- The one-byte-at-a-time form agrees with the block form on the engine's side (R86): when the device
answers the block read and the byte reads with the same bytes, BUF, RESULT and STATUS end the same. -/
def Obligations.ByteFormReadsWhatTheBlockFormReads : Prop :=
  ∀ (reg : RegAddr) (n : Data) (d : List Byte) (s u : State) (rest : List Event),
    s.pfault = false → InAccess s → s.seq = 0 → 1 ≤ n.toNat → n.toNat ≤ s.cfg.bufSize →
    s.cfg.bufSize ≤ 65535 → d.length = n.toNat →
    decode s.cmd = .ok (.readBytes reg n) → s.agenda = .engine :: rest → s.replies = [.ok d] →
    u = { s with cmd := encode (.readBytesS reg n),
                 agenda := List.replicate n.toNat .engine ++ rest,
                 replies := d.map fun b => .ok [b] } →
    ∃ t v, Host.Core.run core 1 s = .next t ∧ Host.Core.run core n.toNat u = .next v ∧
      v.buf = t.buf ∧ v.status = t.status ∧ v.result = t.result ∧ v.fsm = t.fsm ∧ t.fsm = .idle

/-! ### The FIFO packet reader -/

/-- R92: a step in POLLING or WAITING classifies the count it reads. -/
def Obligations.PollingClassifiesTheCount : Prop :=
  ∀ (p : Data) (s s1 : State) (f : Fsm) (hi lo : Byte), InReader f s → (f = .polling ∨ f = .waiting) →
    replyTo (.read s.cfg.fifoCountAddr 2) s = .ok [hi, lo] →
    s1 = { answered (.read s.cfg.fifoCountAddr 2) (.ok [hi, lo]) s with
           fifocount := BitVec.ofNat 16 (count hi lo) } →
    (count hi lo = p.toNat → exec (.fifoGetPacket p) s = .next (readingPacket p s1)) ∧
    (count hi lo > p.toNat → count hi lo > s.cfg.ovfThreshold →
      exec (.fifoGetPacket p) s = .next { s1 with
        status := { s.status with ovf := true }, seq := 0, fsm := .drainReset }) ∧
    (count hi lo > p.toNat → count hi lo ≤ s.cfg.ovfThreshold →
      exec (.fifoGetPacket p) s = .next { s1 with
        status := { s.status with drained := true },
        remain := BitVec.ofNat 16 (count hi lo - p.toNat), fsm := .drainDiscard }) ∧
    (count hi lo < p.toNat → Expired s → exec (.fifoGetPacket p) s = .next (timedOut s1)) ∧
    (count hi lo < p.toNat → ¬Expired s → exec (.fifoGetPacket p) s = .next s1)

/-- R93: DRAIN_RESET is the read-modify-write, in two steps, that sets the reset bit and keeps the other
bits as read. -/
def Obligations.FifoResetSetsOneBit : Prop :=
  ∀ (p : Data) (s : State), InReader .drainReset s →
    (∀ b, s.seq = 0 → replyTo (.readByte s.cfg.fifoResetReg) s = .ok [b] →
      exec (.fifoGetPacket p) s =
        .next { answered (.readByte s.cfg.fifoResetReg) (.ok [b]) s with tmp := b, seq := 1 }) ∧
    (∀ nb : Byte, nb = s.tmp ||| (1#8 <<< s.cfg.fifoResetBit.toNat) → s.seq = 1 →
      replyTo (.writeByte s.cfg.fifoResetReg nb) s = .ok [] →
      exec (.fifoGetPacket p) s =
        .next { answered (.writeByte s.cfg.fifoResetReg nb) (.ok []) s with fsm := .drainResetWait })

/-- R94: a step in DRAIN_RESET_WAIT. -/
def Obligations.ResetWaitPollsForACount : Prop :=
  ∀ (p : Data) (s s1 : State) (hi lo : Byte), InReader .drainResetWait s → 1 ≤ p.toNat →
    replyTo (.read s.cfg.fifoCountAddr 2) s = .ok [hi, lo] →
    s1 = { answered (.read s.cfg.fifoCountAddr 2) (.ok [hi, lo]) s with
           fifocount := BitVec.ofNat 16 (count hi lo) } →
    (count hi lo = 0 → Expired s → exec (.fifoGetPacket p) s = .next (timedOut s1)) ∧
    (count hi lo = 0 → ¬Expired s → exec (.fifoGetPacket p) s = .next s1) ∧
    (count hi lo = p.toNat → exec (.fifoGetPacket p) s = .next (readingPacket p s1)) ∧
    (count hi lo ≠ 0 → count hi lo ≠ p.toNat → Expired s →
      exec (.fifoGetPacket p) s = .next (timedOut s1)) ∧
    (count hi lo ≠ 0 → count hi lo ≠ p.toNat → ¬Expired s →
      exec (.fifoGetPacket p) s = .next { s1 with fsm := .waiting })

/-- R95: a step in DRAIN_DISCARD drops the next sub-read, which BUF does not see, or re-reads the count. -/
def Obligations.DiscardDropsTheBacklog : Prop :=
  ∀ (p : Data) (s : State), InReader .drainDiscard s →
    (∀ (k : Nat) (d : List Byte), 0 < s.remain.toNat → k = min s.remain.toNat s.cfg.maxBlock →
      replyTo (.read s.cfg.fifoDataAddr k) s = .ok d →
      exec (.fifoGetPacket p) s = .next { answered (.read s.cfg.fifoDataAddr k) (.ok d) s with
        remain := BitVec.ofNat 16 (s.remain.toNat - k) }) ∧
    (∀ (s1 : State) (hi lo : Byte), s.remain.toNat = 0 →
      replyTo (.read s.cfg.fifoCountAddr 2) s = .ok [hi, lo] →
      s1 = { answered (.read s.cfg.fifoCountAddr 2) (.ok [hi, lo]) s with
             fifocount := BitVec.ofNat 16 (count hi lo) } →
      (count hi lo > p.toNat → exec (.fifoGetPacket p) s =
        .next { s1 with remain := BitVec.ofNat 16 (count hi lo - p.toNat) }) ∧
      (count hi lo = p.toNat → exec (.fifoGetPacket p) s = .next (readingPacket p s1)) ∧
      (count hi lo < p.toNat → Expired s → exec (.fifoGetPacket p) s = .next (timedOut s1)) ∧
      (count hi lo < p.toNat → ¬Expired s →
        exec (.fifoGetPacket p) s = .next { s1 with fsm := .waiting }))

/-- R96: a step in READ_PACKET stores the next chunk at BUF[IDX] and leaves every other byte of BUF; once
REMAIN is 0 the reader is in PACKET_READY with RLEN = P. -/
def Obligations.PacketReadStoresTheNextChunk : Prop :=
  ∀ (p : Data) (s s1 : State) (k : Nat) (d : List Byte), InReader .readPacket s →
    s.idx.toNat + s.remain.toNat ≤ s.cfg.bufSize → k = min s.remain.toNat s.cfg.maxBlock →
    replyTo (.read s.cfg.fifoDataAddr k) s = .ok d →
    s1 = { answered (.read s.cfg.fifoDataAddr k) (.ok d) s with
           idx := BitVec.ofNat 16 (s.idx.toNat + k), remain := BitVec.ofNat 16 (s.remain.toNat - k) } →
    ∃ m : Memory, (∀ j, j < k → m.read (s.idx.toNat + j) = d[j]?) ∧
      (∀ j, j < s.idx.toNat ∨ s.idx.toNat + k ≤ j → m.read j = s.buf.read j) ∧
      (k < s.remain.toNat → exec (.fifoGetPacket p) s = .next { s1 with buf := m }) ∧
      (s.remain.toNat = k → exec (.fifoGetPacket p) s = .next { s1 with
        buf := m, fsm := .packetReady,
        status := { s.status with pkt := true, busy := false, done := true,
                                  rlen := BitVec.ofNat 16 p.toNat } })

/-- R98: FIFO_GET_PACKET ends in exactly one of three ways, each with DONE = 1 and BUSY = 0. -/
def Obligations.ReaderEndsInOneOfThreeWays : Prop :=
  ∀ (p : Data) (s t : State), Inv s → s.status.busy = true → decode s.cmd = .ok (.fifoGetPacket p) →
    NotCut s → exec (.fifoGetPacket p) s = .next t → t.status.busy = false →
    t.status.done = true ∧
    ((t.fsm = .packetReady ∧ t.status.pkt = true ∧ t.status.timeout = false ∧
        t.status.rlen.toNat = p.toNat ∧ t.status.err = .none) ∨
     (t.fsm = .timedOut ∧ t.status.timeout = true ∧ t.status.pkt = false ∧
        t.status.rlen = 0 ∧ t.status.err = .none) ∨
     (t.fsm = .idle ∧ t.status.err = .transport ∧ t.status.pkt = false ∧ t.status.timeout = false ∧
        t.status.rlen = 0))

/-- R110: a deadline that elapses is no error: TIMEOUT = 1, RLEN = 0, ERR = 0; and BUF is unchanged. -/
def Obligations.TimeoutIsNoError : Prop :=
  ∀ (p : Data) (s t : State), Inv s → s.status.busy = true → decode s.cmd = .ok (.fifoGetPacket p) →
    exec (.fifoGetPacket p) s = .next t → t.fsm = .timedOut →
    Expired s ∧ t.status.timeout = true ∧ t.status.rlen = 0 ∧ t.status.err = .none ∧
      t.status.busy = false ∧ t.status.done = true ∧ t.buf = s.buf

/-- R100: the deadline is tested at exactly four places: a step of the reader ends in TIMED_OUT just when
it is at one of them and the deadline has elapsed, and anywhere else the clock changes nothing. -/
def Obligations.DeadlineIsTestedAtFourPlaces : Prop :=
  ∀ (p : Data) (s : State) (hi lo : Byte) (place : Prop), s.status.busy = true → s.fsm ≠ .access →
    s.fsm.isBusy = true → 1 ≤ p.toNat →
    (replyTo (.read s.cfg.fifoCountAddr 2) s = .ok [hi, lo]) →
    place = (((s.fsm = .polling ∨ s.fsm = .waiting) ∧ count hi lo < p.toNat) ∨
      (s.fsm = .drainResetWait ∧ count hi lo = 0) ∨
      (s.fsm = .drainResetWait ∧ count hi lo ≠ 0 ∧ count hi lo ≠ p.toNat) ∨
      (s.fsm = .drainDiscard ∧ s.remain.toNat = 0 ∧ count hi lo < p.toNat)) →
    ((∃ t, exec (.fifoGetPacket p) s = .next t ∧ t.fsm = .timedOut) ↔ place ∧ Expired s) ∧
    (¬place → ∀ n : Ticks,
      exec (.fifoGetPacket p) { s with now := n } = withNow n (exec (.fifoGetPacket p) s))

/-- The packet read, whole (R96, R99, R101): from READ_PACKET with IDX = 0 and REMAIN = P, the engine
issues ceil(P / P_MAX_BLOCK) reads, and ends in PACKET_READY with the P bytes delivered, in order, in
BUF[0 .. P-1]; no other byte of BUF changes. -/
def Obligations.PacketIsDeliveredWhole : Prop :=
  ∀ (p : Data) (s : State) (d : List Byte) (m : Nat) (rest : List Event) (more : List Reply), Inv s →
    s.pfault = false → InReader .readPacket s → decode s.cmd = .ok (.fifoGetPacket p) →
    s.idx = 0 → s.remain.toNat = p.toNat → d.length = p.toNat →
    m = (p.toNat + s.cfg.maxBlock - 1) / s.cfg.maxBlock →
    s.agenda = List.replicate m .engine ++ rest →
    s.replies = (List.range m).map
      (fun j => .ok ((d.drop (j * s.cfg.maxBlock)).take s.cfg.maxBlock)) ++ more →
    ∃ t, Host.Core.run core m s = .next t ∧ t.fsm = .packetReady ∧ t.status.pkt = true ∧
      t.status.busy = false ∧ t.status.done = true ∧ t.status.err = .none ∧
      t.status.rlen.toNat = p.toNat ∧ (∀ j, j < p.toNat → t.buf.read j = d[j]?) ∧
      (∀ j, p.toNat ≤ j → t.buf.read j = s.buf.read j) ∧ t.bus.length = s.bus.length + m ∧
      t.replies = more

/-- DRAIN_DISCARD repeats for as long as its counts stay above P (R102): whatever the clock does, there
are device answers that keep the engine in it for any number of steps. -/
def Obligations.BacklogCanBeDiscardedForever : Prop :=
  ∀ (p : Data) (s : State) (n : Nat) (ticks : List Ticks), Inv s → s.pfault = false →
    InReader .drainDiscard s → decode s.cmd = .ok (.fifoGetPacket p) → p.toNat < 65535 →
    s.agenda = (ticks.take n).flatMap (fun d => [.tick d, .engine]) → n ≤ ticks.length →
    ∃ replies : List Reply, ∃ t, Host.Core.run core (2 * n) { s with replies := replies } = .next t ∧
      t.fsm = .drainDiscard ∧ t.status.busy = true

/-! ### Errors -/

/-- R108: a transaction that ends in a TransportError, whether State lists the error or the oracle draws
it. The step that issued it answers next: E_TRANSPORT with its register address, the command ended,
nothing retried, nothing undone, OVF and DRAINED as they were. The transaction is the one the rules give
the command next, and the same one where it succeeds. -/
def Obligations.TransportErrorEndsTheCommand : Prop :=
  ∀ (s s0 : State) (i : Instr) (req : Request), Inv s → s.pfault = false → s.status.busy = true →
    decode s.cmd = .ok i → EngineTurn s s0 → req = nextRequest i s0 →
    (replyTo req s0 = .error →
      step s = .next (raised .transport (req.addr.setWidth 32) (answered req .error s0))) ∧
    (∀ d, replyTo req s0 = .ok d → ∃ t, step s = .next t ∧ t.bus = ⟨req, .ok d⟩ :: s.bus)

/-! ### The host port -/

/-- R29: the host breaks the port protocol by an issue or a BUF write while BUSY, or by naming a register
number or BUF index that does not exist: PFAULT is set and nothing else of the engine changes; a state
with PFAULT = 1 is faulted whatever comes next, a reset included. -/
def Obligations.ProtocolBreachesSetPfault : Prop :=
  (∀ (s : State) (rest : List Event) (e : Event), s.pfault = false → s.agenda = e :: rest →
    ((∃ w, e = .issue w) ∧ s.status.busy = true) ∨
    ((∃ i b, e = .writeBuf i b) ∧ s.status.busy = true) ∨
    (∃ n v, (e = .readReg n ∨ e = .writeReg n v) ∧ n > 4) ∨
    (∃ i b, (e = .readBuf i ∨ e = .writeBuf i b) ∧ s.cfg.bufSize ≤ i) →
    step s = .next { s with agenda := rest, pfault := true }) ∧
  (∀ s : State, s.pfault = true → step s = .fault .protocol)

/-- R30: HOST_WRITE_BUF stores its byte while the engine is not busy and the index exists; else it is a
protocol fault. -/
def Obligations.HostWriteBufStoresOneByte : Prop :=
  ∀ (s : State) (rest : List Event) (i : Nat) (b : Byte), s.pfault = false →
    s.agenda = .writeBuf i b :: rest →
    (s.status.busy = false → i < s.cfg.bufSize →
      ∃ m : Memory, m.read i = some b ∧ (∀ j, j ≠ i → m.read j = s.buf.read j) ∧
        step s = .next { s with agenda := rest, buf := m }) ∧
    (¬(s.status.busy = false ∧ i < s.cfg.bufSize) →
      step s = .next { s with agenda := rest, pfault := true })

/-- R31: a host read answers the register R22 gives or the byte of BUF, and changes nothing of the engine;
a byte not written since reset faults. -/
def Obligations.HostReadsAnswerAndChangeNothing : Prop :=
  ∀ (s : State) (rest : List Event), s.pfault = false →
    (∀ n v, s.agenda = .readReg n :: rest →
      (n = 0 ∧ v = s.statusWord ∨ n = 1 ∧ v = s.result ∨ n = 2 ∧ v = s.fifocount.setWidth 32 ∨
        n = 3 ∧ v = s.cmd.extractLsb' 0 32 ∨ n = 4 ∧ v = s.cmd.extractLsb' 32 32) →
      step s = .next { s with agenda := rest, hostOut := .reg n v :: s.hostOut }) ∧
    (∀ i, s.agenda = .readBuf i :: rest → i < s.cfg.bufSize →
      (∀ b, s.buf.read i = some b →
        step s = .next { s with agenda := rest, hostOut := .buf i b :: s.hostOut }) ∧
      (s.buf.read i = none → step s = .fault .unwrittenBuf))

/-- A host write of a register number that exists changes nothing and is no protocol fault: the five are
read-only (R22, R23, R30). That it is no breach is the model's reading, log entry 10. -/
def Obligations.HostWriteOfARegisterChangesNothing : Prop :=
  ∀ (s : State) (rest : List Event) (n : Nat) (v : Data), s.pfault = false →
    s.agenda = .writeReg n v :: rest → n ≤ 4 → step s = .next { s with agenda := rest }

/-- The STATUS word has its fields where R23 puts them, with the codes of R20 and R105, and its reserved
bits read as 0. -/
def Obligations.StatusWordFields : Prop :=
  ∀ s : State,
    s.statusWord.getLsbD 0 = s.status.busy ∧ s.statusWord.getLsbD 1 = s.status.done ∧
    s.statusWord.extractLsb' 2 4 = (match s.status.err with
      | .none => 0#4 | .illegal => 1#4 | .field => 2#4 | .length => 3#4 | .addr => 4#4
      | .range => 5#4 | .transport => 6#4) ∧
    s.statusWord.extractLsb' 6 4 = (match s.fsm with
      | .idle => 0#4 | .polling => 1#4 | .drainReset => 2#4 | .drainResetWait => 3#4
      | .drainDiscard => 4#4 | .waiting => 5#4 | .readPacket => 6#4 | .packetReady => 7#4
      | .timedOut => 8#4 | .access => 9#4) ∧
    s.statusWord.getLsbD 10 = s.status.ovf ∧ s.statusWord.getLsbD 11 = s.status.drained ∧
    s.statusWord.getLsbD 12 = s.status.timeout ∧ s.statusWord.getLsbD 13 = s.status.pkt ∧
    s.statusWord.extractLsb' 14 2 = 0#2 ∧ s.statusWord.extractLsb' 16 16 = s.status.rlen

/-! ### Reset -/

/-- R32: what the reset input leaves, from any state; SEQ, T0, REMAIN, IDX and TMP are unspecified and
nothing is said of them. Reset issues no transaction (R120) and PFAULT keeps its value. -/
def Obligations.ResetInputClearsTheEngine : Prop :=
  ∀ (s : State) (rest : List Event), s.pfault = false → s.agenda = .reset :: rest →
    ∃ t, step s = .next t ∧ t.fsm = .idle ∧ t.statusWord = 0 ∧ t.result = 0 ∧ t.fifocount = 0 ∧
      t.cmd = 0 ∧ (∀ i, t.buf.read i = none) ∧ t.pfault = s.pfault ∧ t.cfg = s.cfg ∧ t.bus = s.bus ∧
      t.replies = s.replies ∧ t.agenda = rest

/-- A reset while a transaction is in flight (R119, R120): the step that issued it answers next; the
transaction, the one the rules give the command next, may or may not have been performed; the command is
abandoned with no error, and no further transaction of it is issued. (The form of the input: log entry
11.) -/
def Obligations.ResetInFlightAbandonsTheCommand : Prop :=
  ∀ (s s0 : State) (i : Instr) (req : Request) (performed : Bool), Inv s → s.pfault = false →
    s.status.busy = true → decode s.cmd = .ok i → EngineTurn s s0 → req = nextRequest i s0 →
    replyTo req s0 = .cutByReset performed →
    ∃ t, step s = .next t ∧ t.bus = ⟨req, .cutByReset performed⟩ :: s.bus ∧ t.fsm = .idle ∧
      t.statusWord = 0 ∧ t.result = 0 ∧ t.fifocount = 0 ∧ t.cmd = 0 ∧ (∀ j, t.buf.read j = none) ∧
      t.pfault = false ∧ t.cfg = s.cfg ∧
      ∀ more, t.agenda = .engine :: more → step t = .next { t with agenda := more }

/-- R21: busy is the seven states of R20's table that execute a command, and then BUSY = 1; in the other
three the engine takes no step; PACKET_READY and TIMED_OUT stay until an issue or a reset. -/
def Obligations.TerminalStatesStayUntilTheNextIssue : Prop :=
  ∀ s : State, Inv s →
    (s.status.busy = true ↔ s.fsm ∈ [Fsm.polling, .drainReset, .drainResetWait, .drainDiscard, .waiting,
      .readPacket, .access]) ∧
    (s.pfault = false → s.status.busy = false → s.agenda = [] → step s = .next s) ∧
    (s.pfault = false → s.status.busy = false → ∀ rest, s.agenda = .engine :: rest →
      step s = .next { s with agenda := rest }) ∧
    (∀ t, s.fsm = .packetReady ∨ s.fsm = .timedOut → step s = .next t →
      t.fsm = s.fsm ∨ (∃ w rest, s.agenda = .issue w :: rest) ∨ ∃ rest, s.agenda = .reset :: rest)

/-! ### What holds in every step -/

/-- R25: CMD is written only at issue, and holds the command word until the next issue or reset. -/
def Obligations.CommandWordChangesOnlyAtIssueOrReset : Prop :=
  ∀ s t : State, step s = .next t →
    t.cmd = s.cmd ∨
    (∃ w rest, s.agenda = .issue w :: rest ∧ s.status.busy = false ∧ t.cmd = w) ∨
    (t.cmd = 0 ∧ ((∃ rest, s.agenda = .reset :: rest) ∨
      ∃ b more, s.replies = .cutByReset b :: more ∧ s.status.busy = true))

/-- A step adds at most one transaction to those on record and forgets none; an issue, a host access, a
reset and a tick add none (R10, R46, R48). -/
def Obligations.StepIssuesAtMostOneTransaction : Prop :=
  ∀ s t : State, step s = .next t →
    (t.bus = s.bus ∨ ∃ e, t.bus = e :: s.bus) ∧
    (s.status.busy = true ∧ (s.agenda = [] ∨ ∃ rest, s.agenda = .engine :: rest) →
      ∃ e, t.bus = e :: s.bus) ∧
    (s.status.busy = false ∨ (∃ e rest, s.agenda = e :: rest ∧ e ≠ .engine) → t.bus = s.bus)

/-- No block transaction is empty or longer than P_MAX_BLOCK (R37), on a transport that can carry a word
(log entry 15: the spec's word forms are two-byte blocks whatever P_MAX_BLOCK is). -/
def Obligations.BlocksFitTheTransport : Prop :=
  ∀ (s t : State) (e : Exchange), Inv s → 2 ≤ s.cfg.maxBlock → step s = .next t → t.bus = e :: s.bus →
    (∀ a n, e.req = .read a n → 1 ≤ n ∧ n ≤ s.cfg.maxBlock) ∧
    (∀ a v, e.req = .write a v → 1 ≤ v.length ∧ v.length ≤ s.cfg.maxBlock)

/-- BUF stays in canonical form and inside P_BUF_SIZE, from every state, reachable or not. -/
def Obligations.StepKeepsTheBufferCanonical : Prop :=
  ∀ s t : State, BufOk s → step s = .next t → BufOk t

/-- STATUS keeps agreeing with `fsm` and reporting at most one outcome (R21, R23, R112), from every
state in which it does. -/
def Obligations.StepKeepsOneOutcome : Prop :=
  ∀ s t : State, StatusOk s → step s = .next t → StatusOk t

/-- The invariant holds after reset. (It says nothing of the values log entries 1, 5 and 6 chose but that
the parameters are legal.) -/
def Obligations.ResetMeetsTheInvariant : Prop := Inv State.reset

/-- Every step keeps the invariant: BUF canonical and in range, STATUS in agreement with `fsm`, and `fsm`,
SEQ, IDX and REMAIN fitting the command in CMD. -/
def Obligations.StepKeepsTheInvariant : Prop :=
  ∀ s t : State, Inv s → step s = .next t → Inv t

/-- Where the invariant holds the machine never refuses, and it stops exactly for what the host did: a state
with PFAULT = 1 (R29); a read of a BUF byte never written since reset (R31); an issue of a command that
passes its checks and takes such a byte from BUF (R33, R70, D37; at issue: log entry 8). So an ENGINE step
never stops. -/
def Obligations.OnlyHostMistakesStopTheMachine : Prop :=
  ∀ s : State, Inv s →
    (∀ r, step s ≠ .refused r) ∧
    (∀ f, step s = .fault f ↔
      (f = .protocol ∧ s.pfault = true) ∨
      (f = .unwrittenBuf ∧ s.pfault = false ∧
        ((∃ j rest, s.agenda = .readBuf j :: rest ∧ j < s.cfg.bufSize ∧ s.buf.read j = none) ∨
         (∃ w rest i, s.agenda = .issue w :: rest ∧ s.status.busy = false ∧ decode w = .ok i ∧
           i.wellFormed s.cfg = true ∧ ¬SourceWritten i s))))
end

