-- ==== Sys2Proof/Laws/State.lean ====
section
/-! SUPPORT. One lemma per field per named update of State and of STATUS, so that no later proof unfolds
a record update. -/

namespace Sys2Proof.Machine

variable (s : State)

/-! ### `latch` -/

@[simp] theorem latch_fsm (w : Cmd) : (latch w s).fsm = s.fsm := rfl
@[simp] theorem latch_seq (w : Cmd) : (latch w s).seq = s.seq := rfl
@[simp] theorem latch_cmd (w : Cmd) : (latch w s).cmd = w := rfl
@[simp] theorem latch_buf (w : Cmd) : (latch w s).buf = s.buf := rfl
@[simp] theorem latch_result (w : Cmd) : (latch w s).result = 0 := rfl
@[simp] theorem latch_status (w : Cmd) : (latch w s).status = s.status.cleared := rfl
@[simp] theorem latch_fifocount (w : Cmd) : (latch w s).fifocount = s.fifocount := rfl
@[simp] theorem latch_t0 (w : Cmd) : (latch w s).t0 = s.t0 := rfl
@[simp] theorem latch_remain (w : Cmd) : (latch w s).remain = s.remain := rfl
@[simp] theorem latch_idx (w : Cmd) : (latch w s).idx = s.idx := rfl
@[simp] theorem latch_tmp (w : Cmd) : (latch w s).tmp = s.tmp := rfl
@[simp] theorem latch_pfault (w : Cmd) : (latch w s).pfault = s.pfault := rfl
@[simp] theorem latch_cfg (w : Cmd) : (latch w s).cfg = s.cfg := rfl
@[simp] theorem latch_now (w : Cmd) : (latch w s).now = s.now := rfl
@[simp] theorem latch_agenda (w : Cmd) : (latch w s).agenda = s.agenda := rfl
@[simp] theorem latch_replies (w : Cmd) : (latch w s).replies = s.replies := rfl
@[simp] theorem latch_draws (w : Cmd) : (latch w s).draws = s.draws := rfl
@[simp] theorem latch_bus (w : Cmd) : (latch w s).bus = s.bus := rfl
@[simp] theorem latch_hostOut (w : Cmd) : (latch w s).hostOut = s.hostOut := rfl

/-! ### `raise` -/

@[simp] theorem raise_fsm (e : ErrCode) (v : Data) : (raise e v s).fsm = .idle := rfl
@[simp] theorem raise_seq (e : ErrCode) (v : Data) : (raise e v s).seq = s.seq := rfl
@[simp] theorem raise_cmd (e : ErrCode) (v : Data) : (raise e v s).cmd = s.cmd := rfl
@[simp] theorem raise_buf (e : ErrCode) (v : Data) : (raise e v s).buf = s.buf := rfl
@[simp] theorem raise_result (e : ErrCode) (v : Data) : (raise e v s).result = v := rfl
@[simp] theorem raise_status (e : ErrCode) (v : Data) : (raise e v s).status = s.status.raised e := rfl
@[simp] theorem raise_fifocount (e : ErrCode) (v : Data) : (raise e v s).fifocount = s.fifocount := rfl
@[simp] theorem raise_t0 (e : ErrCode) (v : Data) : (raise e v s).t0 = s.t0 := rfl
@[simp] theorem raise_remain (e : ErrCode) (v : Data) : (raise e v s).remain = s.remain := rfl
@[simp] theorem raise_idx (e : ErrCode) (v : Data) : (raise e v s).idx = s.idx := rfl
@[simp] theorem raise_tmp (e : ErrCode) (v : Data) : (raise e v s).tmp = s.tmp := rfl
@[simp] theorem raise_pfault (e : ErrCode) (v : Data) : (raise e v s).pfault = s.pfault := rfl
@[simp] theorem raise_cfg (e : ErrCode) (v : Data) : (raise e v s).cfg = s.cfg := rfl
@[simp] theorem raise_now (e : ErrCode) (v : Data) : (raise e v s).now = s.now := rfl
@[simp] theorem raise_agenda (e : ErrCode) (v : Data) : (raise e v s).agenda = s.agenda := rfl
@[simp] theorem raise_replies (e : ErrCode) (v : Data) : (raise e v s).replies = s.replies := rfl
@[simp] theorem raise_draws (e : ErrCode) (v : Data) : (raise e v s).draws = s.draws := rfl
@[simp] theorem raise_bus (e : ErrCode) (v : Data) : (raise e v s).bus = s.bus := rfl
@[simp] theorem raise_hostOut (e : ErrCode) (v : Data) : (raise e v s).hostOut = s.hostOut := rfl

/-! ### `complete` -/

@[simp] theorem complete_fsm (n : Nat) : (complete n s).fsm = if s.fsm = .access then .idle else s.fsm := rfl
@[simp] theorem complete_seq (n : Nat) : (complete n s).seq = s.seq := rfl
@[simp] theorem complete_cmd (n : Nat) : (complete n s).cmd = s.cmd := rfl
@[simp] theorem complete_buf (n : Nat) : (complete n s).buf = s.buf := rfl
@[simp] theorem complete_result (n : Nat) : (complete n s).result = s.result := rfl
@[simp] theorem complete_status (n : Nat) : (complete n s).status = s.status.completed n := rfl
@[simp] theorem complete_fifocount (n : Nat) : (complete n s).fifocount = s.fifocount := rfl
@[simp] theorem complete_t0 (n : Nat) : (complete n s).t0 = s.t0 := rfl
@[simp] theorem complete_remain (n : Nat) : (complete n s).remain = s.remain := rfl
@[simp] theorem complete_idx (n : Nat) : (complete n s).idx = s.idx := rfl
@[simp] theorem complete_tmp (n : Nat) : (complete n s).tmp = s.tmp := rfl
@[simp] theorem complete_pfault (n : Nat) : (complete n s).pfault = s.pfault := rfl
@[simp] theorem complete_cfg (n : Nat) : (complete n s).cfg = s.cfg := rfl
@[simp] theorem complete_now (n : Nat) : (complete n s).now = s.now := rfl
@[simp] theorem complete_agenda (n : Nat) : (complete n s).agenda = s.agenda := rfl
@[simp] theorem complete_replies (n : Nat) : (complete n s).replies = s.replies := rfl
@[simp] theorem complete_draws (n : Nat) : (complete n s).draws = s.draws := rfl
@[simp] theorem complete_bus (n : Nat) : (complete n s).bus = s.bus := rfl
@[simp] theorem complete_hostOut (n : Nat) : (complete n s).hostOut = s.hostOut := rfl

/-! ### `resetEngine` -/

@[simp] theorem resetEngine_fsm : (resetEngine s).fsm = .idle := rfl
@[simp] theorem resetEngine_seq : (resetEngine s).seq = 0 := rfl
@[simp] theorem resetEngine_cmd : (resetEngine s).cmd = 0 := rfl
@[simp] theorem resetEngine_buf : (resetEngine s).buf = [] := rfl
@[simp] theorem resetEngine_result : (resetEngine s).result = 0 := rfl
@[simp] theorem resetEngine_status : (resetEngine s).status = Status.reset := rfl
@[simp] theorem resetEngine_fifocount : (resetEngine s).fifocount = 0 := rfl
@[simp] theorem resetEngine_t0 : (resetEngine s).t0 = 0 := rfl
@[simp] theorem resetEngine_remain : (resetEngine s).remain = 0 := rfl
@[simp] theorem resetEngine_idx : (resetEngine s).idx = 0 := rfl
@[simp] theorem resetEngine_tmp : (resetEngine s).tmp = 0 := rfl
@[simp] theorem resetEngine_pfault : (resetEngine s).pfault = s.pfault := rfl
@[simp] theorem resetEngine_cfg : (resetEngine s).cfg = s.cfg := rfl
@[simp] theorem resetEngine_now : (resetEngine s).now = s.now := rfl
@[simp] theorem resetEngine_agenda : (resetEngine s).agenda = s.agenda := rfl
@[simp] theorem resetEngine_replies : (resetEngine s).replies = s.replies := rfl
@[simp] theorem resetEngine_draws : (resetEngine s).draws = s.draws := rfl
@[simp] theorem resetEngine_bus : (resetEngine s).bus = s.bus := rfl
@[simp] theorem resetEngine_hostOut : (resetEngine s).hostOut = s.hostOut := rfl

/-! ### `afterTxn` -/

@[simp] theorem afterTxn_fsm (r : Request) : (afterTxn r s).fsm = s.fsm := rfl
@[simp] theorem afterTxn_seq (r : Request) : (afterTxn r s).seq = s.seq := rfl
@[simp] theorem afterTxn_cmd (r : Request) : (afterTxn r s).cmd = s.cmd := rfl
@[simp] theorem afterTxn_buf (r : Request) : (afterTxn r s).buf = s.buf := rfl
@[simp] theorem afterTxn_result (r : Request) : (afterTxn r s).result = s.result := rfl
@[simp] theorem afterTxn_status (r : Request) : (afterTxn r s).status = s.status := rfl
@[simp] theorem afterTxn_fifocount (r : Request) : (afterTxn r s).fifocount = s.fifocount := rfl
@[simp] theorem afterTxn_t0 (r : Request) : (afterTxn r s).t0 = s.t0 := rfl
@[simp] theorem afterTxn_remain (r : Request) : (afterTxn r s).remain = s.remain := rfl
@[simp] theorem afterTxn_idx (r : Request) : (afterTxn r s).idx = s.idx := rfl
@[simp] theorem afterTxn_tmp (r : Request) : (afterTxn r s).tmp = s.tmp := rfl
@[simp] theorem afterTxn_pfault (r : Request) : (afterTxn r s).pfault = s.pfault := rfl
@[simp] theorem afterTxn_cfg (r : Request) : (afterTxn r s).cfg = s.cfg := rfl
@[simp] theorem afterTxn_now (r : Request) : (afterTxn r s).now = s.now := rfl
@[simp] theorem afterTxn_agenda (r : Request) : (afterTxn r s).agenda = s.agenda := rfl
@[simp] theorem afterTxn_replies (r : Request) : (afterTxn r s).replies = s.replies.tail := rfl
@[simp] theorem afterTxn_draws (r : Request) : (afterTxn r s).draws = s.draws + 1 := rfl
@[simp] theorem afterTxn_bus (r : Request) : (afterTxn r s).bus = { req := r, reply := replyTo r s } :: s.bus := rfl
@[simp] theorem afterTxn_hostOut (r : Request) : (afterTxn r s).hostOut = s.hostOut := rfl

/-! ### `startAccess` -/

@[simp] theorem startAccess_fsm : (startAccess s).fsm = .access := rfl
@[simp] theorem startAccess_seq : (startAccess s).seq = 0 := rfl
@[simp] theorem startAccess_cmd : (startAccess s).cmd = s.cmd := rfl
@[simp] theorem startAccess_buf : (startAccess s).buf = s.buf := rfl
@[simp] theorem startAccess_result : (startAccess s).result = s.result := rfl
@[simp] theorem startAccess_status : (startAccess s).status = { s.status with busy := true } := rfl
@[simp] theorem startAccess_fifocount : (startAccess s).fifocount = s.fifocount := rfl
@[simp] theorem startAccess_t0 : (startAccess s).t0 = s.t0 := rfl
@[simp] theorem startAccess_remain : (startAccess s).remain = s.remain := rfl
@[simp] theorem startAccess_idx : (startAccess s).idx = s.idx := rfl
@[simp] theorem startAccess_tmp : (startAccess s).tmp = s.tmp := rfl
@[simp] theorem startAccess_pfault : (startAccess s).pfault = s.pfault := rfl
@[simp] theorem startAccess_cfg : (startAccess s).cfg = s.cfg := rfl
@[simp] theorem startAccess_now : (startAccess s).now = s.now := rfl
@[simp] theorem startAccess_agenda : (startAccess s).agenda = s.agenda := rfl
@[simp] theorem startAccess_replies : (startAccess s).replies = s.replies := rfl
@[simp] theorem startAccess_draws : (startAccess s).draws = s.draws := rfl
@[simp] theorem startAccess_bus : (startAccess s).bus = s.bus := rfl
@[simp] theorem startAccess_hostOut : (startAccess s).hostOut = s.hostOut := rfl

/-! ### `startReader` -/

@[simp] theorem startReader_fsm : (startReader s).fsm = .polling := rfl
@[simp] theorem startReader_seq : (startReader s).seq = s.seq := rfl
@[simp] theorem startReader_cmd : (startReader s).cmd = s.cmd := rfl
@[simp] theorem startReader_buf : (startReader s).buf = s.buf := rfl
@[simp] theorem startReader_result : (startReader s).result = s.result := rfl
@[simp] theorem startReader_status : (startReader s).status = { s.status with busy := true } := rfl
@[simp] theorem startReader_fifocount : (startReader s).fifocount = 0 := rfl
@[simp] theorem startReader_t0 : (startReader s).t0 = s.now := rfl
@[simp] theorem startReader_remain : (startReader s).remain = s.remain := rfl
@[simp] theorem startReader_idx : (startReader s).idx = s.idx := rfl
@[simp] theorem startReader_tmp : (startReader s).tmp = s.tmp := rfl
@[simp] theorem startReader_pfault : (startReader s).pfault = s.pfault := rfl
@[simp] theorem startReader_cfg : (startReader s).cfg = s.cfg := rfl
@[simp] theorem startReader_now : (startReader s).now = s.now := rfl
@[simp] theorem startReader_agenda : (startReader s).agenda = s.agenda := rfl
@[simp] theorem startReader_replies : (startReader s).replies = s.replies := rfl
@[simp] theorem startReader_draws : (startReader s).draws = s.draws := rfl
@[simp] theorem startReader_bus : (startReader s).bus = s.bus := rfl
@[simp] theorem startReader_hostOut : (startReader s).hostOut = s.hostOut := rfl

/-! ### `advance` -/

@[simp] theorem advance_fsm : (advance s).fsm = s.fsm := rfl
@[simp] theorem advance_seq : (advance s).seq = s.seq + 1 := rfl
@[simp] theorem advance_cmd : (advance s).cmd = s.cmd := rfl
@[simp] theorem advance_buf : (advance s).buf = s.buf := rfl
@[simp] theorem advance_result : (advance s).result = s.result := rfl
@[simp] theorem advance_status : (advance s).status = s.status := rfl
@[simp] theorem advance_fifocount : (advance s).fifocount = s.fifocount := rfl
@[simp] theorem advance_t0 : (advance s).t0 = s.t0 := rfl
@[simp] theorem advance_remain : (advance s).remain = s.remain := rfl
@[simp] theorem advance_idx : (advance s).idx = s.idx := rfl
@[simp] theorem advance_tmp : (advance s).tmp = s.tmp := rfl
@[simp] theorem advance_pfault : (advance s).pfault = s.pfault := rfl
@[simp] theorem advance_cfg : (advance s).cfg = s.cfg := rfl
@[simp] theorem advance_now : (advance s).now = s.now := rfl
@[simp] theorem advance_agenda : (advance s).agenda = s.agenda := rfl
@[simp] theorem advance_replies : (advance s).replies = s.replies := rfl
@[simp] theorem advance_draws : (advance s).draws = s.draws := rfl
@[simp] theorem advance_bus : (advance s).bus = s.bus := rfl
@[simp] theorem advance_hostOut : (advance s).hostOut = s.hostOut := rfl

/-! ### `timeOut` -/

@[simp] theorem timeOut_fsm : (timeOut s).fsm = .timedOut := rfl
@[simp] theorem timeOut_seq : (timeOut s).seq = s.seq := rfl
@[simp] theorem timeOut_cmd : (timeOut s).cmd = s.cmd := rfl
@[simp] theorem timeOut_buf : (timeOut s).buf = s.buf := rfl
@[simp] theorem timeOut_result : (timeOut s).result = s.result := rfl
@[simp] theorem timeOut_status : (timeOut s).status = Status.completed 0 { s.status with timeout := true } := rfl
@[simp] theorem timeOut_fifocount : (timeOut s).fifocount = s.fifocount := rfl
@[simp] theorem timeOut_t0 : (timeOut s).t0 = s.t0 := rfl
@[simp] theorem timeOut_remain : (timeOut s).remain = s.remain := rfl
@[simp] theorem timeOut_idx : (timeOut s).idx = s.idx := rfl
@[simp] theorem timeOut_tmp : (timeOut s).tmp = s.tmp := rfl
@[simp] theorem timeOut_pfault : (timeOut s).pfault = s.pfault := rfl
@[simp] theorem timeOut_cfg : (timeOut s).cfg = s.cfg := rfl
@[simp] theorem timeOut_now : (timeOut s).now = s.now := rfl
@[simp] theorem timeOut_agenda : (timeOut s).agenda = s.agenda := rfl
@[simp] theorem timeOut_replies : (timeOut s).replies = s.replies := rfl
@[simp] theorem timeOut_draws : (timeOut s).draws = s.draws := rfl
@[simp] theorem timeOut_bus : (timeOut s).bus = s.bus := rfl
@[simp] theorem timeOut_hostOut : (timeOut s).hostOut = s.hostOut := rfl

/-! ### `enterRead` -/

@[simp] theorem enterRead_fsm (p : Nat) : (enterRead p s).fsm = .readPacket := rfl
@[simp] theorem enterRead_seq (p : Nat) : (enterRead p s).seq = s.seq := rfl
@[simp] theorem enterRead_cmd (p : Nat) : (enterRead p s).cmd = s.cmd := rfl
@[simp] theorem enterRead_buf (p : Nat) : (enterRead p s).buf = s.buf := rfl
@[simp] theorem enterRead_result (p : Nat) : (enterRead p s).result = s.result := rfl
@[simp] theorem enterRead_status (p : Nat) : (enterRead p s).status = s.status := rfl
@[simp] theorem enterRead_fifocount (p : Nat) : (enterRead p s).fifocount = s.fifocount := rfl
@[simp] theorem enterRead_t0 (p : Nat) : (enterRead p s).t0 = s.t0 := rfl
@[simp] theorem enterRead_remain (p : Nat) : (enterRead p s).remain = BitVec.ofNat 16 p := rfl
@[simp] theorem enterRead_idx (p : Nat) : (enterRead p s).idx = 0 := rfl
@[simp] theorem enterRead_tmp (p : Nat) : (enterRead p s).tmp = s.tmp := rfl
@[simp] theorem enterRead_pfault (p : Nat) : (enterRead p s).pfault = s.pfault := rfl
@[simp] theorem enterRead_cfg (p : Nat) : (enterRead p s).cfg = s.cfg := rfl
@[simp] theorem enterRead_now (p : Nat) : (enterRead p s).now = s.now := rfl
@[simp] theorem enterRead_agenda (p : Nat) : (enterRead p s).agenda = s.agenda := rfl
@[simp] theorem enterRead_replies (p : Nat) : (enterRead p s).replies = s.replies := rfl
@[simp] theorem enterRead_draws (p : Nat) : (enterRead p s).draws = s.draws := rfl
@[simp] theorem enterRead_bus (p : Nat) : (enterRead p s).bus = s.bus := rfl
@[simp] theorem enterRead_hostOut (p : Nat) : (enterRead p s).hostOut = s.hostOut := rfl

/-! ### `protocolFault` -/

@[simp] theorem protocolFault_fsm : (protocolFault s).fsm = s.fsm := rfl
@[simp] theorem protocolFault_seq : (protocolFault s).seq = s.seq := rfl
@[simp] theorem protocolFault_cmd : (protocolFault s).cmd = s.cmd := rfl
@[simp] theorem protocolFault_buf : (protocolFault s).buf = s.buf := rfl
@[simp] theorem protocolFault_result : (protocolFault s).result = s.result := rfl
@[simp] theorem protocolFault_status : (protocolFault s).status = s.status := rfl
@[simp] theorem protocolFault_fifocount : (protocolFault s).fifocount = s.fifocount := rfl
@[simp] theorem protocolFault_t0 : (protocolFault s).t0 = s.t0 := rfl
@[simp] theorem protocolFault_remain : (protocolFault s).remain = s.remain := rfl
@[simp] theorem protocolFault_idx : (protocolFault s).idx = s.idx := rfl
@[simp] theorem protocolFault_tmp : (protocolFault s).tmp = s.tmp := rfl
@[simp] theorem protocolFault_pfault : (protocolFault s).pfault = true := rfl
@[simp] theorem protocolFault_cfg : (protocolFault s).cfg = s.cfg := rfl
@[simp] theorem protocolFault_now : (protocolFault s).now = s.now := rfl
@[simp] theorem protocolFault_agenda : (protocolFault s).agenda = s.agenda := rfl
@[simp] theorem protocolFault_replies : (protocolFault s).replies = s.replies := rfl
@[simp] theorem protocolFault_draws : (protocolFault s).draws = s.draws := rfl
@[simp] theorem protocolFault_bus : (protocolFault s).bus = s.bus := rfl
@[simp] theorem protocolFault_hostOut : (protocolFault s).hostOut = s.hostOut := rfl

/-! ### `freeTick` -/

@[simp] theorem freeTick_fsm : (freeTick s).fsm = s.fsm := rfl
@[simp] theorem freeTick_seq : (freeTick s).seq = s.seq := rfl
@[simp] theorem freeTick_cmd : (freeTick s).cmd = s.cmd := rfl
@[simp] theorem freeTick_buf : (freeTick s).buf = s.buf := rfl
@[simp] theorem freeTick_result : (freeTick s).result = s.result := rfl
@[simp] theorem freeTick_status : (freeTick s).status = s.status := rfl
@[simp] theorem freeTick_fifocount : (freeTick s).fifocount = s.fifocount := rfl
@[simp] theorem freeTick_t0 : (freeTick s).t0 = s.t0 := rfl
@[simp] theorem freeTick_remain : (freeTick s).remain = s.remain := rfl
@[simp] theorem freeTick_idx : (freeTick s).idx = s.idx := rfl
@[simp] theorem freeTick_tmp : (freeTick s).tmp = s.tmp := rfl
@[simp] theorem freeTick_pfault : (freeTick s).pfault = s.pfault := rfl
@[simp] theorem freeTick_cfg : (freeTick s).cfg = s.cfg := rfl
@[simp] theorem freeTick_now : (freeTick s).now = s.now + Config.freeTicks s.draws := rfl
@[simp] theorem freeTick_agenda : (freeTick s).agenda = s.agenda := rfl
@[simp] theorem freeTick_replies : (freeTick s).replies = s.replies := rfl
@[simp] theorem freeTick_draws : (freeTick s).draws = s.draws + 1 := rfl
@[simp] theorem freeTick_bus : (freeTick s).bus = s.bus := rfl
@[simp] theorem freeTick_hostOut : (freeTick s).hostOut = s.hostOut := rfl

/-! ### STATUS -/

@[simp] theorem Status.cleared_busy (t : Status) : (t.cleared).busy = t.busy := rfl
@[simp] theorem Status.cleared_done (t : Status) : (t.cleared).done = false := rfl
@[simp] theorem Status.cleared_err (t : Status) : (t.cleared).err = .none := rfl
@[simp] theorem Status.cleared_ovf (t : Status) : (t.cleared).ovf = false := rfl
@[simp] theorem Status.cleared_drained (t : Status) : (t.cleared).drained = false := rfl
@[simp] theorem Status.cleared_timeout (t : Status) : (t.cleared).timeout = false := rfl
@[simp] theorem Status.cleared_pkt (t : Status) : (t.cleared).pkt = false := rfl
@[simp] theorem Status.cleared_rlen (t : Status) : (t.cleared).rlen = 0 := rfl
@[simp] theorem Status.raised_busy (t : Status) (e : ErrCode) : (t.raised e).busy = false := rfl
@[simp] theorem Status.raised_done (t : Status) (e : ErrCode) : (t.raised e).done = true := rfl
@[simp] theorem Status.raised_err (t : Status) (e : ErrCode) : (t.raised e).err = e := rfl
@[simp] theorem Status.raised_ovf (t : Status) (e : ErrCode) : (t.raised e).ovf = t.ovf := rfl
@[simp] theorem Status.raised_drained (t : Status) (e : ErrCode) : (t.raised e).drained = t.drained := rfl
@[simp] theorem Status.raised_timeout (t : Status) (e : ErrCode) : (t.raised e).timeout = t.timeout := rfl
@[simp] theorem Status.raised_pkt (t : Status) (e : ErrCode) : (t.raised e).pkt = t.pkt := rfl
@[simp] theorem Status.raised_rlen (t : Status) (e : ErrCode) : (t.raised e).rlen = 0 := rfl
@[simp] theorem Status.completed_busy (t : Status) (n : Nat) : (t.completed n).busy = false := rfl
@[simp] theorem Status.completed_done (t : Status) (n : Nat) : (t.completed n).done = true := rfl
@[simp] theorem Status.completed_err (t : Status) (n : Nat) : (t.completed n).err = t.err := rfl
@[simp] theorem Status.completed_ovf (t : Status) (n : Nat) : (t.completed n).ovf = t.ovf := rfl
@[simp] theorem Status.completed_drained (t : Status) (n : Nat) : (t.completed n).drained = t.drained := rfl
@[simp] theorem Status.completed_timeout (t : Status) (n : Nat) : (t.completed n).timeout = t.timeout := rfl
@[simp] theorem Status.completed_pkt (t : Status) (n : Nat) : (t.completed n).pkt = t.pkt := rfl
@[simp] theorem Status.completed_rlen (t : Status) (n : Nat) : (t.completed n).rlen = BitVec.ofNat 16 n := rfl
@[simp] theorem Status.reset_busy : Status.reset.busy = false := rfl
@[simp] theorem Status.reset_done : Status.reset.done = false := rfl
@[simp] theorem Status.reset_err : Status.reset.err = .none := rfl
@[simp] theorem Status.reset_ovf : Status.reset.ovf = false := rfl
@[simp] theorem Status.reset_drained : Status.reset.drained = false := rfl
@[simp] theorem Status.reset_timeout : Status.reset.timeout = false := rfl
@[simp] theorem Status.reset_pkt : Status.reset.pkt = false := rfl
@[simp] theorem Status.reset_rlen : Status.reset.rlen = 0 := rfl

end Sys2Proof.Machine
end

