-- ==== Sys2Proof/Laws/Decode.lean ====
section
/-! SUPPORT. The bits and fields of an assembled command word, and a word as the assembly of its fields. -/

namespace Sys2Proof

section
variable (op : BitVec 4) (reg : RegAddr) (len : BitVec 4) (start : BitVec 3) (data : Data)

/-- Every bit of an assembled command word (R56). -/
theorem getLsbD_assemble (i : Nat) : (assemble op reg len start data).getLsbD i =
    if i < 32 then data.getLsbD i else if i < 45 then false
    else if i < 48 then start.getLsbD (i - 45) else if i < 52 then len.getLsbD (i - 48)
    else if i < 60 then reg.getLsbD (i - 52) else op.getLsbD (i - 60) := by
  unfold assemble
  iterate 5 erw [BitVec.getLsbD_append]
  simp only [BitVec.getLsbD_zero, Nat.sub_sub, Nat.reduceAdd]
  split_ifs <;> first | rfl | omega

@[simp] theorem fieldOp_assemble : fieldOp (assemble op reg len start data) = op := by
  ext i hi
  simp only [fieldOp, BitVec.getElem_extractLsb', getLsbD_assemble]
  split_ifs <;> first | omega | simp [BitVec.getLsbD_eq_getElem hi]

@[simp] theorem fieldReg_assemble : fieldReg (assemble op reg len start data) = reg := by
  ext i hi
  simp only [fieldReg, BitVec.getElem_extractLsb', getLsbD_assemble]
  split_ifs <;> first | omega | simp [BitVec.getLsbD_eq_getElem hi]

@[simp] theorem fieldLen_assemble : fieldLen (assemble op reg len start data) = len := by
  ext i hi
  simp only [fieldLen, BitVec.getElem_extractLsb', getLsbD_assemble]
  split_ifs <;> first | omega | simp [BitVec.getLsbD_eq_getElem hi]

@[simp] theorem fieldStart_assemble : fieldStart (assemble op reg len start data) = start := by
  ext i hi
  simp only [fieldStart, BitVec.getElem_extractLsb', getLsbD_assemble]
  split_ifs <;> first | omega | simp [BitVec.getLsbD_eq_getElem hi]

@[simp] theorem fieldRsvd_assemble : fieldRsvd (assemble op reg len start data) = 0 := by
  ext i hi
  simp only [fieldRsvd, BitVec.getElem_extractLsb', getLsbD_assemble]
  split_ifs <;> first | omega | simp

@[simp] theorem fieldData_assemble : fieldData (assemble op reg len start data) = data := by
  ext i hi
  simp only [fieldData, BitVec.getElem_extractLsb', getLsbD_assemble]
  split_ifs <;> first | omega | simp [BitVec.getLsbD_eq_getElem hi]

end

/-- A word with RSVD = 0 is the assembly of its other fields (R56). -/
theorem assemble_fields (w : Cmd) (h : fieldRsvd w = 0) :
    assemble (fieldOp w) (fieldReg w) (fieldLen w) (fieldStart w) (fieldData w) = w := by
  ext i hi
  rw [← BitVec.getLsbD_eq_getElem hi, ← BitVec.getLsbD_eq_getElem hi, getLsbD_assemble]
  have hr : 32 ≤ i → i < 45 → w.getLsbD i = false := fun h1 h2 => by
    have := congrArg (fun v => BitVec.getLsbD v (i - 32)) h
    simp only [fieldRsvd, BitVec.getLsbD_extractLsb'] at this
    rw [show 32 + (i - 32) = i by omega] at this
    simpa [show i - 32 < 13 by omega] using this
  simp only [fieldOp, fieldReg, fieldLen, fieldStart, fieldData, BitVec.getLsbD_extractLsb']
  split_ifs with h1 h2 h3 h4 h5
  · simp [h1]
  · exact (hr (by omega) h2).symm
  · simp [show 45 + (i - 45) = i by omega, show i - 45 < 3 by omega]
  · simp [show 48 + (i - 48) = i by omega, show i - 48 < 4 by omega]
  · simp [show 52 + (i - 52) = i by omega, show i - 52 < 8 by omega]
  · simp [show 60 + (i - 60) = i by omega, show i - 60 < 4 by omega]

end Sys2Proof
end

