-- ==== Sys2Proof/Laws/Memory.lean ====
section
/-! SUPPORT. BUF: what a read gives after a write, that every operation keeps the canonical form and the
bound, and that loads and stores of several bytes are their byte operations. -/

namespace Sys2Proof.Machine

theorem Memory.read_write_same (m : Memory) (i : Nat) (b : Byte) : (m.write i b).read i = some b := by
  induction m with
  | nil => simp [Memory.write, Memory.read]
  | cons c rest ih =>
    obtain ⟨j, x⟩ := c
    simp only [Memory.write]
    split
    · simp [Memory.read]
    · split
      · simp [Memory.read]
      · next h => simp [Memory.read, Ne.symm h, ih]

theorem Memory.read_write_other (m : Memory) {i j : Nat} (b : Byte) (h : i ≠ j) :
    (m.write i b).read j = m.read j := by
  induction m with
  | nil => simp [Memory.write, Memory.read, h]
  | cons c rest ih =>
    obtain ⟨k, x⟩ := c
    simp only [Memory.write]
    split
    · simp [Memory.read, h]
    · split
      · next e => subst e; simp [Memory.read, h]
      · simp [Memory.read, ih]

theorem Memory.read_write (m : Memory) (i j : Nat) (b : Byte) :
    (m.write i b).read j = if j = i then some b else m.read j := by
  split
  · next h => subst h; exact m.read_write_same _ _
  · next h => exact m.read_write_other _ (Ne.symm h)

theorem Memory.read_writeBlock (v : List Byte) (m : Memory) (i j : Nat) :
    (m.writeBlock i v).read j = if i ≤ j ∧ j < i + v.length then v[j - i]? else m.read j := by
  induction v generalizing m i with
  | nil => simp [Memory.writeBlock]
  | cons b rest ih =>
    rw [Memory.writeBlock, ih, Memory.read_write]
    by_cases h : j = i
    · subst h; simp
    · by_cases h2 : i + 1 ≤ j ∧ j < i + 1 + rest.length
      · have e : j - i = (j - (i + 1)) + 1 := by omega
        rw [if_pos h2, if_pos (by simp only [List.length_cons]; omega), e, List.getElem?_cons_succ]
      · rw [if_neg h2, if_neg h, if_neg (by simp only [List.length_cons]; omega)]

theorem Memory.risesFrom_mono {lo lo' : Nat} {m : Memory} (h : lo' ≤ lo) (hm : m.risesFrom lo = true) :
    m.risesFrom lo' = true := by
  cases m with
  | nil => rfl
  | cons c rest =>
    simp only [Memory.risesFrom, Bool.and_eq_true, decide_eq_true_eq] at hm ⊢
    exact ⟨Nat.le_trans h hm.1, hm.2⟩

theorem Memory.risesFrom_write {lo i : Nat} (b : Byte) {m : Memory} (h : lo ≤ i)
    (hm : m.risesFrom lo = true) : (m.write i b).risesFrom lo = true := by
  induction m generalizing lo with
  | nil => simp [Memory.write, Memory.risesFrom, h]
  | cons c rest ih =>
    obtain ⟨j, x⟩ := c
    simp only [Memory.risesFrom, Bool.and_eq_true, decide_eq_true_eq] at hm
    simp only [Memory.write]
    split
    · simp only [Memory.risesFrom, Bool.and_eq_true, decide_eq_true_eq]
      exact ⟨h, by omega, hm.2⟩
    · split
      · next e => subst e; simp only [Memory.risesFrom, Bool.and_eq_true, decide_eq_true_eq]; exact hm
      · simp only [Memory.risesFrom, Bool.and_eq_true, decide_eq_true_eq]
        exact ⟨hm.1, ih (by omega) hm.2⟩

theorem Memory.wf_write {m : Memory} (i : Nat) (b : Byte) (h : m.wf = true) : (m.write i b).wf = true :=
  Memory.risesFrom_write b (Nat.zero_le i) h

theorem Memory.wf_writeBlock {m : Memory} (i : Nat) (v : List Byte) (h : m.wf = true) :
    (m.writeBlock i v).wf = true := by
  induction v generalizing m i with
  | nil => exact h
  | cons b rest ih => exact ih (i + 1) (Memory.wf_write i b h)

theorem Memory.below_write {m : Memory} {size i : Nat} (b : Byte) (hi : i < size)
    (h : m.below size = true) : (m.write i b).below size = true := by
  induction m with
  | nil => simp [Memory.write, Memory.below, hi]
  | cons c rest ih =>
    obtain ⟨j, x⟩ := c
    simp only [Memory.below, List.all_cons, Bool.and_eq_true, decide_eq_true_eq] at h ih
    simp only [Memory.write]
    split
    · simp [Memory.below, hi, h.1]; simpa using h.2
    · split
      · simp [Memory.below, hi]; simpa using h.2
      · simp only [Memory.below, List.all_cons, Bool.and_eq_true, decide_eq_true_eq]
        exact ⟨h.1, ih h.2⟩

theorem Memory.below_writeBlock {m : Memory} {size i : Nat} {v : List Byte} (hi : i + v.length ≤ size)
    (h : m.below size = true) : (m.writeBlock i v).below size = true := by
  induction v generalizing m i with
  | nil => exact h
  | cons b rest ih =>
    simp only [List.length_cons] at hi
    exact ih (by omega) (Memory.below_write b (by omega) h)

theorem Memory.readBlock_length {m : Memory} {i n : Nat} {v : List Byte}
    (h : m.readBlock i n = some v) : v.length = n := by
  induction n generalizing i v with
  | zero => simp [Memory.readBlock] at h; simp [← h]
  | succ k ih =>
    simp only [Memory.readBlock] at h
    split at h
    · next b rest _ hr => cases h; simp [ih hr]
    · cases h

/-- A block load gives the bytes of BUF in order, and succeeds exactly when every one is written. -/
theorem Memory.readBlock_get {m : Memory} {i n : Nat} {v : List Byte} (h : m.readBlock i n = some v)
    {k : Nat} (hk : k < n) : m.read (i + k) = v[k]? := by
  induction n generalizing i v k with
  | zero => omega
  | succ n ih =>
    simp only [Memory.readBlock] at h
    split at h
    · next b rest hb hr =>
      cases h
      cases k with
      | zero => simpa using hb
      | succ k =>
        rw [List.getElem?_cons_succ, ← ih hr (by omega)]
        congr 1; omega
    · cases h

theorem Memory.readBlock_isSome {m : Memory} {i n : Nat} (h : ∀ k, k < n → (m.read (i + k)).isSome) :
    (m.readBlock i n).isSome := by
  induction n generalizing i with
  | zero => rfl
  | succ n ih =>
    obtain ⟨b, hb⟩ := Option.isSome_iff_exists.1 (h 0 (by omega))
    obtain ⟨r, hr⟩ := Option.isSome_iff_exists.1 (ih (i := i + 1) fun k hk => by
      have := h (k + 1) (by omega); rwa [show i + (k + 1) = i + 1 + k by omega] at this)
    simp only [Nat.add_zero] at hb
    simp [Memory.readBlock, hb, hr]

/-- A block of BUF can be loaded exactly when every one of its bytes is written. -/
theorem Memory.readBlock_isSome_iff {m : Memory} {i n : Nat} :
    (m.readBlock i n).isSome = true ↔ ∀ k, k < n → (m.read (i + k)).isSome = true := by
  refine ⟨fun h k hk => ?_, Memory.readBlock_isSome⟩
  obtain ⟨v, hv⟩ := Option.isSome_iff_exists.1 h
  rw [Memory.readBlock_get hv hk, List.getElem?_eq_getElem (by rw [Memory.readBlock_length hv]; exact hk)]
  rfl

/-- A command's source bytes are written exactly when each of them is (R70). -/
theorem sourceWritten_iff {i : Instr} {m : Memory} :
    sourceWritten i m = true ↔ ∀ k, k < sourceBytes i → (m.read k).isSome = true := by
  simp [sourceWritten, Memory.readBlock_isSome_iff]

@[simp] theorem fillBytes_length (d k n : Nat) (v : List Byte) : (fillBytes d k n v).length = n := by
  induction n generalizing k v with
  | zero => simp [fillBytes]
  | succ n ih => cases v <;> simp [fillBytes, ih]

/-- Bytes the state's list gives are delivered as they are. -/
theorem fillBytes_given (d k : Nat) (v : List Byte) : fillBytes d k v.length v = v := by
  induction v generalizing k with
  | nil => rfl
  | cons b rest ih => simp [fillBytes, ih]

end Sys2Proof.Machine
end

