-- ==== Sys2Proof/Laws/Ops.lean ====
section
/-! SUPPORT. One lemma per shared operation that says once everything it can do: if it answers next `t`,
then one of these cases holds; and what it answers when its conditions hold. -/

namespace Sys2Proof.Machine

variable {s t : State}

/-- A successful read delivers exactly the bytes asked for (R14). -/
theorem replyTo_length {req : Request} {d : List Byte} (h : replyTo req s = .ok d) :
    d.length = req.readLen := by
  unfold replyTo at h
  split at h
  · split at h <;> cases h; simp
  · cases h; simp
  · cases h
  · cases h

/-- Everything a transaction can do (R39, R108, R120). -/
theorem transact_next {req : Request} {k : List Byte → State → Out} (h : transact req s k = .next t) :
    (∃ d, replyTo req s = .ok d ∧ d.length = req.readLen ∧ k d (afterTxn req s) = .next t) ∨
    (replyTo req s = .error ∧ t = raise .transport (req.addr.setWidth 32) (afterTxn req s)) ∨
    (∃ p, replyTo req s = .cutByReset p ∧ t = resetEngine (afterTxn req s)) := by
  unfold transact at h
  split at h
  · next d hd => exact .inl ⟨d, hd, replyTo_length hd, h⟩
  · next hd => cases h; exact .inr (.inl ⟨hd, rfl⟩)
  · next p hd => cases h; exact .inr (.inr ⟨p, hd, rfl⟩)

theorem transact_ok {req : Request} {k : List Byte → State → Out} {d : List Byte}
    (h : replyTo req s = .ok d) : transact req s k = k d (afterTxn req s) := by
  simp [transact, h]

theorem transact_error {req : Request} {k : List Byte → State → Out} (h : replyTo req s = .error) :
    transact req s k = .next (raise .transport (req.addr.setWidth 32) (afterTxn req s)) := by
  simp [transact, h]

/-- What the state's list of replies gives, the transaction gets. -/
theorem replyTo_ok_cons {req : Request} {v : List Byte} {rest : List Reply}
    (h : s.replies = .ok v :: rest) : replyTo req s = .ok (fillBytes s.draws 0 req.readLen v) := by
  simp [replyTo, h]

theorem replyTo_error_cons {req : Request} {rest : List Reply} (h : s.replies = .error :: rest) :
    replyTo req s = .error := by
  simp [replyTo, h]

/-- Storing into BUF answers next only inside BUF. -/
theorem bufStore_next {i : Nat} {v : List Byte} {k : State → Out} (h : bufStore i v s k = .next t) :
    i + v.length ≤ s.cfg.bufSize ∧ k { s with buf := s.buf.writeBlock i v } = .next t := by
  unfold bufStore at h
  split at h
  · next hi => exact ⟨hi, h⟩
  · cases h

theorem bufStore_ok {i : Nat} {v : List Byte} {k : State → Out} (h : i + v.length ≤ s.cfg.bufSize) :
    bufStore i v s k = k { s with buf := s.buf.writeBlock i v } := by
  simp [bufStore, h]

/-- Loading from BUF answers next only when every byte has been written since reset (R70). -/
theorem bufLoad_next {i n : Nat} {k : List Byte → Out} (h : bufLoad i n s k = .next t) :
    ∃ v, s.buf.readBlock i n = some v ∧ v.length = n ∧ k v = .next t := by
  unfold bufLoad at h
  split at h
  · next v hv => exact ⟨v, hv, Memory.readBlock_length hv, h⟩
  · cases h

/-- An accessor command's step is its issue, or its run in ACCESS (R27, R68). -/
theorem accessor_next {i : Instr} {run : State → Out} (h : accessor i run s = .next t) :
    (s.status.busy = true ∧ s.fsm = .access ∧ run s = .next t) ∨
    (s.status.busy = false ∧ issueChecked i startAccess s = .next t) := by
  unfold accessor at h
  split at h
  · next hb =>
    split at h
    · next hf => exact .inl ⟨hb, hf, h⟩
    · cases h
  · next hb => exact .inr ⟨by simpa using hb, h⟩

theorem accessor_busy {i : Instr} {run : State → Out} (hb : s.status.busy = true)
    (hf : s.fsm = .access) : accessor i run s = run s := by
  simp [accessor, hb, hf]

theorem accessor_issue {i : Instr} {run : State → Out} (hb : s.status.busy = false) :
    accessor i run s = issueChecked i startAccess s := by
  simp [accessor, hb]

/-- The end of an accessor's step: it completes after the last transaction, else it moves on (R68). -/
theorem stepTo_cases (n rlen : Nat) (s : State) :
    (n ≤ s.seq.toNat + 1 ∧ stepTo n rlen s = complete rlen (advance s)) ∨
    (s.seq.toNat + 1 < n ∧ stepTo n rlen s = advance s) := by
  unfold stepTo
  split
  · next h => exact .inl ⟨h, rfl⟩
  · next h => exact .inr ⟨by omega, rfl⟩

/-- A checked issue raises the first failing check with info 0, faults over an unwritten byte of BUF, or
starts the command (R26, R33, R106). -/
theorem issueChecked_cases (i : Instr) (start : State → State) (s : State) :
    (∃ e, issueCheck s.cfg i = some e ∧ issueChecked i start s = .next (raise e 0 s)) ∨
    (issueCheck s.cfg i = none ∧ sourceWritten i s.buf = false ∧
      issueChecked i start s = .fault .unwrittenBuf) ∨
    (issueCheck s.cfg i = none ∧ sourceWritten i s.buf = true ∧
      issueChecked i start s = .next (start s)) := by
  unfold issueChecked
  split
  · next e h => exact .inl ⟨e, h, rfl⟩
  · next h =>
    cases hw : sourceWritten i s.buf
    · exact .inr (.inl ⟨h, rfl, rfl⟩)
    · exact .inr (.inr ⟨h, rfl, rfl⟩)

/-- An issue that answers next raised an error, or started a command whose bytes of BUF are written. -/
theorem issueChecked_next {i : Instr} {start : State → State} (h : issueChecked i start s = .next t) :
    (∃ e, issueCheck s.cfg i = some e ∧ t = raise e 0 s) ∨
    (issueCheck s.cfg i = none ∧ sourceWritten i s.buf = true ∧ t = start s) := by
  obtain ⟨e, he, h'⟩ | ⟨-, -, h'⟩ | ⟨he, hw, h'⟩ := issueChecked_cases i start s <;> rw [h'] at h <;> cases h
  · exact .inl ⟨e, he, rfl⟩
  · exact .inr ⟨he, hw, rfl⟩

/-- What follows a count in POLLING or WAITING (R92). -/
theorem classify_cases (p c : Nat) (s : State) :
    (c = p ∧ classify p c s = enterRead p s) ∨
    (c > p ∧ c > s.cfg.ovfThreshold ∧ classify p c s =
      { s with status := { s.status with ovf := true }, seq := 0, fsm := .drainReset }) ∨
    (c > p ∧ c ≤ s.cfg.ovfThreshold ∧ classify p c s =
      { s with status := { s.status with drained := true }, remain := BitVec.ofNat 16 (c - p),
               fsm := .drainDiscard }) ∨
    (c < p ∧ expired s = true ∧ classify p c s = timeOut s) ∨
    (c < p ∧ expired s = false ∧ classify p c s = s) := by
  unfold classify
  split_ifs with h1 h2 h3 h4
  · exact .inl ⟨h1, rfl⟩
  · exact .inr (.inl ⟨h2.1, h2.2, rfl⟩)
  · exact .inr (.inr (.inl ⟨h3, by omega, rfl⟩))
  · exact .inr (.inr (.inr (.inl ⟨by omega, h4, rfl⟩)))
  · exact .inr (.inr (.inr (.inr ⟨by omega, by simpa using h4, rfl⟩)))

/-- What follows a count in DRAIN_RESET_WAIT (R94). -/
theorem afterReset_cases (p c : Nat) (s : State) :
    (c = 0 ∧ expired s = false ∧ afterReset p c s = s) ∨
    (c ≠ 0 ∧ c = p ∧ afterReset p c s = enterRead p s) ∨
    ((c = 0 ∨ c ≠ p) ∧ expired s = true ∧ afterReset p c s = timeOut s) ∨
    (c ≠ 0 ∧ c ≠ p ∧ expired s = false ∧ afterReset p c s = { s with fsm := .waiting }) := by
  unfold afterReset
  split_ifs with h1 h2 h3 h4
  · exact .inr (.inr (.inl ⟨.inl h1, h2, rfl⟩))
  · exact .inl ⟨h1, by simpa using h2, rfl⟩
  · exact .inr (.inl ⟨h1, h3, rfl⟩)
  · exact .inr (.inr (.inl ⟨.inr h3, h4, rfl⟩))
  · exact .inr (.inr (.inr ⟨h1, h3, by simpa using h4, rfl⟩))

/-- What follows the re-read count in DRAIN_DISCARD (R95). -/
theorem afterDiscard_cases (p c : Nat) (s : State) :
    (c > p ∧ afterDiscard p c s = { s with remain := BitVec.ofNat 16 (c - p) }) ∨
    (c = p ∧ afterDiscard p c s = enterRead p s) ∨
    (c < p ∧ expired s = true ∧ afterDiscard p c s = timeOut s) ∨
    (c < p ∧ expired s = false ∧ afterDiscard p c s = { s with fsm := .waiting }) := by
  unfold afterDiscard
  split_ifs with h1 h2 h3
  · exact .inl ⟨h1, rfl⟩
  · exact .inr (.inl ⟨h2, rfl⟩)
  · exact .inr (.inr (.inl ⟨by omega, h3, rfl⟩))
  · exact .inr (.inr (.inr ⟨by omega, by simpa using h3, rfl⟩))

theorem fieldFails_eq (start : BitVec 3) (len : BitVec 4) :
    fieldFails start len = !fieldInByte start len := by
  rw [Bool.eq_iff_iff]; simp [fieldFails, fieldInByte]

theorem addrFails_eq (reg : RegAddr) (span : Nat) : addrFails reg span = !registersExist reg span := by
  rw [Bool.eq_iff_iff]; simp [addrFails, registersExist]; omega

theorem rangeFails_eq (v : Data) : rangeFails v = !inWordRange v := by
  rw [Bool.eq_iff_iff]; simp [rangeFails, inWordRange]

theorem lengthFails_eq (n : Data) (limit : Nat) : lengthFails n limit = !countWithin n limit := rfl

/-- The checks of issue pass exactly for the well-formed commands (R61 to R64, R106). -/
theorem issueCheck_eq_none (p : Params) (i : Instr) : issueCheck p i = none ↔ i.wellFormed p = true := by
  cases i <;>
    simp [issueCheck, firstFailure, Instr.wellFormed, fieldFails_eq, lengthFails_eq, addrFails_eq,
      rangeFails_eq, ite_eq_iff]

end Sys2Proof.Machine
end

