-- ==== Sys2Proof/Laws/Operands.lean ====
section
/-! SUPPORT. Operand forms as numbers: the big-endian word (R41). -/

namespace Sys2Proof.Machine

/-- `{hi, lo} = hi*256 + lo` (R12, R41). -/
theorem beWord_toNat (hi lo : Byte) : (beWord hi lo).toNat = hi.toNat * 256 + lo.toNat := by
  have h : (beWord hi lo).toNat = hi.toNat <<< 8 ||| lo.toNat := BitVec.toNat_append hi lo
  rw [h, Nat.shiftLeft_eq, Nat.mul_comm, ← Nat.two_pow_add_eq_or_of_lt lo.isLt]

theorem beWord_eq (hi lo : Byte) : beWord hi lo = BitVec.ofNat 16 (hi.toNat * 256 + lo.toNat) := by
  rw [← beWord_toNat, BitVec.ofNat_toNat, BitVec.setWidth_eq]

end Sys2Proof.Machine
end

