-- ==== Sys2Proof/Laws/PerInstr.lean ====
section
/-! SUPPORT. Families of statements made once per command. TableRow: the command word of a command is
accepted by the opcode table's row of that command's name (R60). -/

namespace Sys2Proof.Laws

/-- Masking an assembled word masks its fields. -/
theorem assemble_and (op opM : BitVec 4) (reg regM : RegAddr) (len lenM : BitVec 4) (start startM : BitVec 3)
    (data dataM : Data) :
    assemble op reg len start data &&& (opM ++ regM ++ lenM ++ startM ++ 0x1FFF#13 ++ dataM) =
      assemble (op &&& opM) (reg &&& regM) (len &&& lenM) (start &&& startM) (data &&& dataM) := by
  unfold assemble
  iterate 5 erw [BitVec.and_append]
  rfl

/-- The row's name is the command's, and the row matches the command's word. -/
def TableRow.Statement (i : Instr) : Prop :=
  ∃ r ∈ opcodeTable, r.mnemonic = i.mnemonic ∧ r.accepts (encode i) = true

/-- A row matches an assembled word when the masked fields are the pattern's. -/
theorem accepts_assemble {r : Row} {op opM : BitVec 4} {reg regM : RegAddr} {len lenM : BitVec 4}
    {start startM : BitVec 3} {data dataM : Data}
    (hm : r.mask = opM ++ regM ++ lenM ++ startM ++ 0x1FFF#13 ++ dataM)
    (hp : assemble (op &&& opM) (reg &&& regM) (len &&& lenM) (start &&& startM) (data &&& dataM) =
      r.pattern) : r.accepts (assemble op reg len start data) = true := by
  simp only [Row.accepts, beq_iff_eq]
  rw [hm, assemble_and, hp]

/-- A byte has no bit above bit 7. -/
theorem byte_masked (b : Byte) : b.setWidth 32 &&& (0xFFFFFF00 : Data) = 0 := by
  revert b; decide

theorem TableRow.readBit (reg pos) : TableRow.Statement (.readBit reg pos) :=
  ⟨_, List.mem_of_getElem? (i := 0) rfl, rfl,
    accepts_assemble (opM := 15) (regM := 0) (lenM := 15) (startM := 0) (dataM := 0xFFFFFFFF)
      (by decide) (by simp; decide)⟩

theorem TableRow.writeBit (reg pos value) : TableRow.Statement (.writeBit reg pos value) :=
  ⟨_, List.mem_of_getElem? (i := 1) rfl, rfl,
    accepts_assemble (opM := 15) (regM := 0) (lenM := 15) (startM := 0) (dataM := 0xFFFFFFFE)
      (by decide) (by cases value <;> simp <;> decide)⟩

theorem TableRow.readBits (reg start len) : TableRow.Statement (.readBits reg start len) :=
  ⟨_, List.mem_of_getElem? (i := 2) rfl, rfl,
    accepts_assemble (opM := 15) (regM := 0) (lenM := 0) (startM := 0) (dataM := 0xFFFFFFFF)
      (by decide) (by simp; decide)⟩

theorem TableRow.writeBits (reg start len value) : TableRow.Statement (.writeBits reg start len value) :=
  ⟨_, List.mem_of_getElem? (i := 3) rfl, rfl,
    accepts_assemble (opM := 15) (regM := 0) (lenM := 0) (startM := 0) (dataM := 0)
      (by decide) (by simp; decide)⟩

theorem TableRow.readByte (reg) : TableRow.Statement (.readByte reg) :=
  ⟨_, List.mem_of_getElem? (i := 4) rfl, rfl,
    accepts_assemble (opM := 15) (regM := 0) (lenM := 15) (startM := 7) (dataM := 0xFFFFFFFF)
      (by decide) (by simp; decide)⟩

theorem TableRow.writeByte (reg byte) : TableRow.Statement (.writeByte reg byte) :=
  ⟨_, List.mem_of_getElem? (i := 5) rfl, rfl,
    accepts_assemble (opM := 15) (regM := 0) (lenM := 15) (startM := 7) (dataM := 0xFFFFFF00)
      (by decide) (by rw [byte_masked]; simp; decide)⟩

theorem TableRow.readWord (reg) : TableRow.Statement (.readWord reg) :=
  ⟨_, List.mem_of_getElem? (i := 6) rfl, rfl,
    accepts_assemble (opM := 15) (regM := 0) (lenM := 15) (startM := 7) (dataM := 0xFFFFFFFF)
      (by decide) (by simp; decide)⟩

theorem TableRow.writeWord (reg value) : TableRow.Statement (.writeWord reg value) :=
  ⟨_, List.mem_of_getElem? (i := 7) rfl, rfl,
    accepts_assemble (opM := 15) (regM := 0) (lenM := 15) (startM := 7) (dataM := 0)
      (by decide) (by simp; decide)⟩

theorem TableRow.readWords (reg n) : TableRow.Statement (.readWords reg n) :=
  ⟨_, List.mem_of_getElem? (i := 8) rfl, rfl,
    accepts_assemble (opM := 15) (regM := 0) (lenM := 15) (startM := 7) (dataM := 0)
      (by decide) (by simp; decide)⟩

theorem TableRow.writeWords (reg n) : TableRow.Statement (.writeWords reg n) :=
  ⟨_, List.mem_of_getElem? (i := 9) rfl, rfl,
    accepts_assemble (opM := 15) (regM := 0) (lenM := 15) (startM := 7) (dataM := 0)
      (by decide) (by simp; decide)⟩

theorem TableRow.readBytes (reg n) : TableRow.Statement (.readBytes reg n) :=
  ⟨_, List.mem_of_getElem? (i := 10) rfl, rfl,
    accepts_assemble (opM := 15) (regM := 0) (lenM := 15) (startM := 7) (dataM := 0)
      (by decide) (by simp; decide)⟩

theorem TableRow.writeBytes (reg n) : TableRow.Statement (.writeBytes reg n) :=
  ⟨_, List.mem_of_getElem? (i := 11) rfl, rfl,
    accepts_assemble (opM := 15) (regM := 0) (lenM := 15) (startM := 7) (dataM := 0)
      (by decide) (by simp; decide)⟩

theorem TableRow.readBytesS (reg n) : TableRow.Statement (.readBytesS reg n) :=
  ⟨_, List.mem_of_getElem? (i := 12) rfl, rfl,
    accepts_assemble (opM := 15) (regM := 0) (lenM := 15) (startM := 7) (dataM := 0)
      (by decide) (by simp; decide)⟩

theorem TableRow.writeBytesS (reg n) : TableRow.Statement (.writeBytesS reg n) :=
  ⟨_, List.mem_of_getElem? (i := 13) rfl, rfl,
    accepts_assemble (opM := 15) (regM := 0) (lenM := 15) (startM := 7) (dataM := 0)
      (by decide) (by simp; decide)⟩

theorem TableRow.fifoGetPacket (p) : TableRow.Statement (.fifoGetPacket p) :=
  ⟨_, List.mem_of_getElem? (i := 14) rfl, rfl,
    accepts_assemble (opM := 15) (regM := 255) (lenM := 15) (startM := 7) (dataM := 0)
      (by decide) (by simp; decide)⟩

end Sys2Proof.Laws
end

