-- ==== Sys2Proof/Laws/Step.lean ====
section
/-! SUPPORT. Once for each command: everything one ENGINE step of it can do; and what the ENGINE's turn,
an issue and the step itself can do. -/

namespace Sys2Proof.Machine

variable {s t : State}

/-- The three ways a step that issues `req` ends: the state `next d` computed from the bytes delivered,
E_TRANSPORT, or the engine's reset (R108, R120). -/
def Transacted (req : Request) (next : List Byte → State) (s t : State) : Prop :=
  (∃ d, replyTo req s = .ok d ∧ d.length = req.readLen ∧ t = next d) ∨
  (replyTo req s = .error ∧ t = raise .transport (req.addr.setWidth 32) (afterTxn req s)) ∨
  (∃ p, replyTo req s = .cutByReset p ∧ t = resetEngine (afterTxn req s))

theorem transact_pure {req : Request} {k : List Byte → State → State}
    (h : (transact req s fun d u => .next (k d u)) = .next t) :
    Transacted req (fun d => k d (afterTxn req s)) s t := by
  obtain ⟨d, hd, hl, hk⟩ | ⟨hd, ht⟩ | ⟨p, hd, ht⟩ := transact_next h
  · exact .inl ⟨d, hd, hl, by cases hk; rfl⟩
  · exact .inr (.inl ⟨hd, ht⟩)
  · exact .inr (.inr ⟨p, hd, ht⟩)

/-- A transaction whose bytes are stored into BUF. -/
theorem transact_store {req : Request} {i : Nat} {f : List Byte → List Byte} {k : State → State}
    (h : (transact req s fun d u => bufStore i (f d) u fun v => .next (k v)) = .next t) :
    Transacted req (fun d => k { afterTxn req s with buf := s.buf.writeBlock i (f d) }) s t ∧
      ∀ d, replyTo req s = .ok d → i + (f d).length ≤ s.cfg.bufSize := by
  obtain ⟨d, hd, hl, hk⟩ | ⟨hd, ht⟩ | ⟨p, hd, ht⟩ := transact_next h
  · obtain ⟨hi, hk⟩ := bufStore_next hk
    refine ⟨.inl ⟨d, hd, hl, by cases hk; rfl⟩, fun d' hd' => ?_⟩
    rw [hd] at hd'; cases hd'; exact hi
  · exact ⟨.inr (.inl ⟨hd, ht⟩), fun d' hd' => by rw [hd] at hd'; cases hd'⟩
  · exact ⟨.inr (.inr ⟨p, hd, ht⟩), fun d' hd' => by rw [hd] at hd'; cases hd'⟩

/-! ### One ENGINE step of each command -/

section
variable {reg : RegAddr} {pos start : BitVec 3} {len : BitVec 4} {v n p : Data} {b : Byte} {x : Bool}

theorem execReadBit_busy (hb : s.status.busy = true) (h : execReadBit reg pos s = .next t) :
    s.fsm = .access ∧ Transacted (.readByte reg) (fun d => stepTo 1 0
      { afterTxn (.readByte reg) s with result := bitResult (d.getD 0 0) pos }) s t := by
  obtain ⟨-, hf, h⟩ | ⟨h0, -⟩ := accessor_next h
  · exact ⟨hf, transact_pure h⟩
  · simp [hb] at h0

/-- A read-modify-write step: the read while SEQ = 0, else the write (R73, R75). -/
theorem readModifyWrite_next {f : Byte → Byte} (h : readModifyWrite reg f s = .next t) :
    (s.seq = 0 ∧ Transacted (.readByte reg)
      (fun d => stepTo 2 0 { afterTxn (.readByte reg) s with tmp := d.getD 0 0 }) s t) ∨
    (s.seq ≠ 0 ∧ Transacted (.writeByte reg (f s.tmp))
      (fun _ => stepTo 2 0 { afterTxn (.writeByte reg (f s.tmp)) s with
        result := (f s.tmp).setWidth 32 }) s t) := by
  unfold readModifyWrite at h
  split at h
  · next h0 => exact .inl ⟨h0, transact_pure h⟩
  · next h0 => exact .inr ⟨h0, transact_pure h⟩

theorem execWriteBit_busy (hb : s.status.busy = true) (h : execWriteBit reg pos x s = .next t) :
    s.fsm = .access ∧ readModifyWrite reg (fun b => setBit b pos x) s = .next t := by
  obtain ⟨-, hf, h⟩ | ⟨h0, -⟩ := accessor_next h
  · exact ⟨hf, h⟩
  · simp [hb] at h0

theorem execReadBits_busy (hb : s.status.busy = true) (h : execReadBits reg start len s = .next t) :
    s.fsm = .access ∧ Transacted (.readByte reg) (fun d => stepTo 1 0
      { afterTxn (.readByte reg) s with
        result := (extractField (d.getD 0 0) start len).setWidth 32 }) s t := by
  obtain ⟨-, hf, h⟩ | ⟨h0, -⟩ := accessor_next h
  · exact ⟨hf, transact_pure h⟩
  · simp [hb] at h0

theorem execWriteBits_busy (hb : s.status.busy = true) (h : execWriteBits reg start len v s = .next t) :
    s.fsm = .access ∧ readModifyWrite reg (fun b => insertField b start len v) s = .next t := by
  obtain ⟨-, hf, h⟩ | ⟨h0, -⟩ := accessor_next h
  · exact ⟨hf, h⟩
  · simp [hb] at h0

theorem execReadByte_busy (hb : s.status.busy = true) (h : execReadByte reg s = .next t) :
    s.fsm = .access ∧ Transacted (.readByte reg) (fun d => stepTo 1 0
      { afterTxn (.readByte reg) s with result := (d.getD 0 0).setWidth 32 }) s t := by
  obtain ⟨-, hf, h⟩ | ⟨h0, -⟩ := accessor_next h
  · exact ⟨hf, transact_pure h⟩
  · simp [hb] at h0

theorem execWriteByte_busy (hb : s.status.busy = true) (h : execWriteByte reg b s = .next t) :
    s.fsm = .access ∧ Transacted (.writeByte reg b)
      (fun _ => stepTo 1 0 (afterTxn (.writeByte reg b) s)) s t := by
  obtain ⟨-, hf, h⟩ | ⟨h0, -⟩ := accessor_next h
  · exact ⟨hf, transact_pure h⟩
  · simp [hb] at h0

theorem execReadWord_busy (hb : s.status.busy = true) (h : execReadWord reg s = .next t) :
    s.fsm = .access ∧ Transacted (.read reg 2) (fun d => stepTo 1 0
      { afterTxn (.read reg 2) s with
        result := (beWord (d.getD 0 0) (d.getD 1 0)).setWidth 32 }) s t := by
  obtain ⟨-, hf, h⟩ | ⟨h0, -⟩ := accessor_next h
  · exact ⟨hf, transact_pure h⟩
  · simp [hb] at h0

theorem execWriteWord_busy (hb : s.status.busy = true) (h : execWriteWord reg v s = .next t) :
    s.fsm = .access ∧ Transacted (.write reg (beBytes v))
      (fun _ => stepTo 1 0 (afterTxn (.write reg (beBytes v)) s)) s t := by
  obtain ⟨-, hf, h⟩ | ⟨h0, -⟩ := accessor_next h
  · exact ⟨hf, transact_pure h⟩
  · simp [hb] at h0

theorem execReadWords_busy (hb : s.status.busy = true) (h : execReadWords reg n s = .next t) :
    s.fsm = .access ∧ Transacted (.read (regAt reg (2 * s.seq.toNat)) 2)
      (fun d => stepTo n.toNat (2 * n.toNat)
        { afterTxn (.read (regAt reg (2 * s.seq.toNat)) 2) s with
          buf := s.buf.writeBlock (2 * s.seq.toNat) d }) s t ∧
      ∀ d, replyTo (.read (regAt reg (2 * s.seq.toNat)) 2) s = .ok d →
        2 * s.seq.toNat + d.length ≤ s.cfg.bufSize := by
  obtain ⟨-, hf, h⟩ | ⟨h0, -⟩ := accessor_next h
  · exact ⟨hf, transact_store (f := id) h⟩
  · simp [hb] at h0

theorem execWriteWords_busy (hb : s.status.busy = true) (h : execWriteWords reg n s = .next t) :
    s.fsm = .access ∧ ∃ w, s.buf.readBlock (2 * s.seq.toNat) 2 = some w ∧ w.length = 2 ∧
      Transacted (.write (regAt reg (2 * s.seq.toNat)) w)
        (fun _ => stepTo n.toNat 0 (afterTxn (.write (regAt reg (2 * s.seq.toNat)) w) s)) s t := by
  obtain ⟨-, hf, h⟩ | ⟨h0, -⟩ := accessor_next h
  · obtain ⟨w, hw, hl, h⟩ := bufLoad_next h
    exact ⟨hf, w, hw, hl, transact_pure h⟩
  · simp [hb] at h0

theorem execReadBytes_busy (hb : s.status.busy = true) (h : execReadBytes reg n s = .next t) :
    s.fsm = .access ∧ Transacted (.read reg n.toNat) (fun d => stepTo 1 n.toNat
        { afterTxn (.read reg n.toNat) s with buf := s.buf.writeBlock 0 d }) s t ∧
      ∀ d, replyTo (.read reg n.toNat) s = .ok d → 0 + d.length ≤ s.cfg.bufSize := by
  obtain ⟨-, hf, h⟩ | ⟨h0, -⟩ := accessor_next h
  · exact ⟨hf, transact_store (f := id) h⟩
  · simp [hb] at h0

theorem execWriteBytes_busy (hb : s.status.busy = true) (h : execWriteBytes reg n s = .next t) :
    s.fsm = .access ∧ ∃ w, s.buf.readBlock 0 n.toNat = some w ∧ w.length = n.toNat ∧
      Transacted (.write reg w) (fun _ => stepTo 1 0 (afterTxn (.write reg w) s)) s t := by
  obtain ⟨-, hf, h⟩ | ⟨h0, -⟩ := accessor_next h
  · obtain ⟨w, hw, hl, h⟩ := bufLoad_next h
    exact ⟨hf, w, hw, hl, transact_pure h⟩
  · simp [hb] at h0

theorem execReadBytesS_busy (hb : s.status.busy = true) (h : execReadBytesS reg n s = .next t) :
    s.fsm = .access ∧ Transacted (.readByte (regAt reg s.seq.toNat))
      (fun d => stepTo n.toNat n.toNat
        { afterTxn (.readByte (regAt reg s.seq.toNat)) s with
          buf := s.buf.writeBlock s.seq.toNat [d.getD 0 0] }) s t ∧
      ∀ d, replyTo (.readByte (regAt reg s.seq.toNat)) s = .ok d →
        s.seq.toNat + [d.getD 0 0].length ≤ s.cfg.bufSize := by
  obtain ⟨-, hf, h⟩ | ⟨h0, -⟩ := accessor_next h
  · exact ⟨hf, transact_store (f := fun d => [d.getD 0 0]) h⟩
  · simp [hb] at h0

theorem execWriteBytesS_busy (hb : s.status.busy = true) (h : execWriteBytesS reg n s = .next t) :
    s.fsm = .access ∧ ∃ w, s.buf.readBlock s.seq.toNat 1 = some w ∧ w.length = 1 ∧
      Transacted (.writeByte (regAt reg s.seq.toNat) (w.getD 0 0))
        (fun _ => stepTo n.toNat 0
          (afterTxn (.writeByte (regAt reg s.seq.toNat) (w.getD 0 0)) s)) s t := by
  obtain ⟨-, hf, h⟩ | ⟨h0, -⟩ := accessor_next h
  · obtain ⟨w, hw, hl, h⟩ := bufLoad_next h
    exact ⟨hf, w, hw, hl, transact_pure h⟩
  · simp [hb] at h0

/-- The reader's state after a count read delivered `d` (R90). -/
def counted (d : List Byte) (s : State) : State :=
  { afterTxn (.read s.cfg.fifoCountAddr 2) s with fifocount := beWord (d.getD 0 0) (d.getD 1 0) }

/-- The count those bytes stand for (R90). -/
def countOf (d : List Byte) : Nat := (beWord (d.getD 0 0) (d.getD 1 0)).toNat

theorem countRead_pure {k : Nat → State → State}
    (h : (countRead s fun c u => .next (k c u)) = .next t) :
    Transacted (.read s.cfg.fifoCountAddr 2) (fun d => k (countOf d) (counted d s)) s t :=
  transact_pure (k := fun d u => k (countOf d) { u with fifocount := beWord (d.getD 0 0) (d.getD 1 0) }) h

/-- Everything one ENGINE step of the reader can do, by its control state (R92 to R96). -/
theorem execFifoGetPacket_busy (hb : s.status.busy = true) (h : execFifoGetPacket p s = .next t) :
    ((s.fsm = .polling ∨ s.fsm = .waiting) ∧ Transacted (.read s.cfg.fifoCountAddr 2)
      (fun d => classify p.toNat (countOf d) (counted d s)) s t) ∨
    (s.fsm = .drainReset ∧ s.seq = 0 ∧ Transacted (.readByte s.cfg.fifoResetReg)
      (fun d => { afterTxn (.readByte s.cfg.fifoResetReg) s with tmp := d.getD 0 0, seq := 1 }) s t) ∨
    (s.fsm = .drainReset ∧ s.seq ≠ 0 ∧
      Transacted (.writeByte s.cfg.fifoResetReg (setBit s.tmp s.cfg.fifoResetBit true))
      (fun _ => { afterTxn (.writeByte s.cfg.fifoResetReg (setBit s.tmp s.cfg.fifoResetBit true)) s with
        fsm := .drainResetWait }) s t) ∨
    (s.fsm = .drainResetWait ∧ Transacted (.read s.cfg.fifoCountAddr 2)
      (fun d => afterReset p.toNat (countOf d) (counted d s)) s t) ∨
    (s.fsm = .drainDiscard ∧ 0 < s.remain.toNat ∧ Transacted (.read s.cfg.fifoDataAddr (chunk s))
      (fun _ => { afterTxn (.read s.cfg.fifoDataAddr (chunk s)) s with
        remain := BitVec.ofNat 16 (s.remain.toNat - chunk s) }) s t) ∨
    (s.fsm = .drainDiscard ∧ s.remain.toNat = 0 ∧ Transacted (.read s.cfg.fifoCountAddr 2)
      (fun d => afterDiscard p.toNat (countOf d) (counted d s)) s t) ∨
    (s.fsm = .readPacket ∧ Transacted (.read s.cfg.fifoDataAddr (chunk s))
      (fun d => packetDone p.toNat { afterTxn (.read s.cfg.fifoDataAddr (chunk s)) s with
        buf := s.buf.writeBlock s.idx.toNat d,
        idx := BitVec.ofNat 16 (s.idx.toNat + chunk s),
        remain := BitVec.ofNat 16 (s.remain.toNat - chunk s) }) s t ∧
      ∀ d, replyTo (.read s.cfg.fifoDataAddr (chunk s)) s = .ok d →
        s.idx.toNat + d.length ≤ s.cfg.bufSize) := by
  rw [execFifoGetPacket, if_pos hb] at h
  split at h
  · next hf => exact .inl ⟨.inl hf, countRead_pure h⟩
  · next hf => exact .inl ⟨.inr hf, countRead_pure h⟩
  · next hf =>
    unfold resetStep at h
    split at h
    · next h0 => exact .inr (.inl ⟨hf, h0, transact_pure h⟩)
    · next h0 => exact .inr (.inr (.inl ⟨hf, h0, transact_pure h⟩))
  · next hf => exact .inr (.inr (.inr (.inl ⟨hf, countRead_pure h⟩)))
  · next hf =>
    unfold discardStep at h
    split at h
    · next h0 => exact .inr (.inr (.inr (.inr (.inl ⟨hf, h0, transact_pure h⟩))))
    · next h0 => exact .inr (.inr (.inr (.inr (.inr (.inl ⟨hf, by omega, countRead_pure h⟩)))))
  · next hf =>
    obtain ⟨h1, h2⟩ := transact_store (f := id)
      (k := fun u => packetDone p.toNat { u with
        idx := BitVec.ofNat 16 (u.idx.toNat + chunk u),
        remain := BitVec.ofNat 16 (u.remain.toNat - chunk u) }) h
    exact .inr (.inr (.inr (.inr (.inr (.inr ⟨hf, h1, h2⟩)))))
  all_goals cases h

/-- What the computation after a transaction leaves alone: the record of transactions as the transaction
left it, and CMD, the parameters and the agenda. -/
def Untouched (req : Request) (s u : State) : Prop :=
  u.bus = (afterTxn req s).bus ∧ u.cmd = s.cmd ∧ u.cfg = s.cfg ∧ u.agenda = s.agenda

theorem stepTo_untouched {req : Request} {u : State} {k r : Nat} (h : Untouched req s u) :
    Untouched req s (stepTo k r u) := by
  unfold stepTo; split <;> exact h

/-- Every ENGINE step of every command is one transaction, and what it computes after it leaves the rest
alone (R10, R46). -/
theorem exec_busy {i : Instr} (hb : s.status.busy = true) (h : exec i s = .next t) :
    ∃ req next, Transacted req next s t ∧ ∀ d, Untouched req s (next d) := by
  have one {req next} {k r : Nat} {f : List Byte → State}
      (h : Transacted req next s t) (e : next = fun d => stepTo k r (f d))
      (hf : ∀ d, Untouched req s (f d)) : ∃ req next, Transacted req next s t ∧ ∀ d, Untouched req s (next d) :=
    ⟨req, next, h, fun d => e ▸ stepTo_untouched (hf d)⟩
  have rmw {reg f} (h : readModifyWrite reg f s = .next t) :
      ∃ req next, Transacted req next s t ∧ ∀ d, Untouched req s (next d) := by
    obtain ⟨_, h⟩ | ⟨_, h⟩ := readModifyWrite_next h <;> exact one h rfl fun _ => ⟨rfl, rfl, rfl, rfl⟩
  cases i with
  | readBit => exact one (execReadBit_busy hb h).2 rfl fun _ => ⟨rfl, rfl, rfl, rfl⟩
  | writeBit => exact rmw (execWriteBit_busy hb h).2
  | readBits => exact one (execReadBits_busy hb h).2 rfl fun _ => ⟨rfl, rfl, rfl, rfl⟩
  | writeBits => exact rmw (execWriteBits_busy hb h).2
  | readByte => exact one (execReadByte_busy hb h).2 rfl fun _ => ⟨rfl, rfl, rfl, rfl⟩
  | writeByte => exact one (execWriteByte_busy hb h).2 rfl fun _ => ⟨rfl, rfl, rfl, rfl⟩
  | readWord => exact one (execReadWord_busy hb h).2 rfl fun _ => ⟨rfl, rfl, rfl, rfl⟩
  | writeWord => exact one (execWriteWord_busy hb h).2 rfl fun _ => ⟨rfl, rfl, rfl, rfl⟩
  | readWords => exact one (execReadWords_busy hb h).2.1 rfl fun _ => ⟨rfl, rfl, rfl, rfl⟩
  | writeWords =>
    obtain ⟨_, w, _, _, h⟩ := execWriteWords_busy hb h
    exact one h rfl fun _ => ⟨rfl, rfl, rfl, rfl⟩
  | readBytes => exact one (execReadBytes_busy hb h).2.1 rfl fun _ => ⟨rfl, rfl, rfl, rfl⟩
  | writeBytes =>
    obtain ⟨_, w, _, _, h⟩ := execWriteBytes_busy hb h
    exact one h rfl fun _ => ⟨rfl, rfl, rfl, rfl⟩
  | readBytesS => exact one (execReadBytesS_busy hb h).2.1 rfl fun _ => ⟨rfl, rfl, rfl, rfl⟩
  | writeBytesS =>
    obtain ⟨_, w, _, _, h⟩ := execWriteBytesS_busy hb h
    exact one h rfl fun _ => ⟨rfl, rfl, rfl, rfl⟩
  | fifoGetPacket =>
    obtain ⟨_, h⟩ | ⟨_, _, h⟩ | ⟨_, _, h⟩ | ⟨_, h⟩ | ⟨_, _, h⟩ | ⟨_, _, h⟩ | ⟨_, h, _⟩ :=
      execFifoGetPacket_busy hb h
    all_goals refine ⟨_, _, h, fun d => ?_⟩
    · unfold classify; split_ifs <;> exact ⟨rfl, rfl, rfl, rfl⟩
    · exact ⟨rfl, rfl, rfl, rfl⟩
    · exact ⟨rfl, rfl, rfl, rfl⟩
    · unfold afterReset; split_ifs <;> exact ⟨rfl, rfl, rfl, rfl⟩
    · exact ⟨rfl, rfl, rfl, rfl⟩
    · unfold afterDiscard; split_ifs <;> exact ⟨rfl, rfl, rfl, rfl⟩
    · unfold packetDone; split_ifs <;> exact ⟨rfl, rfl, rfl, rfl⟩

end

/-! ### The step -/

/-- An issue is refused by the protocol, raises E_ILLEGAL, or is the command's own issue (R26). -/
theorem hostIssue_next {run : Instr → State → Out} {w : Cmd} (h : hostIssue run w s = .next t) :
    (s.status.busy = true ∧ t = protocolFault s) ∨
    (s.status.busy = false ∧ ∃ r, decode w = .error r ∧ t = raise .illegal 0 (latch w s)) ∨
    (s.status.busy = false ∧ ∃ i, decode w = .ok i ∧ run i (latch w s) = .next t) := by
  unfold hostIssue at h
  split at h
  · next hb => cases h; exact .inl ⟨hb, rfl⟩
  · next hb =>
    split at h
    · next i hi => exact .inr (.inr ⟨by simpa using hb, i, hi, h⟩)
    · next r hr => cases h; exact .inr (.inl ⟨by simpa using hb, r, hr, rfl⟩)

/-- The ENGINE's turn is no step, or one step of the latched command (R10, R21). -/
theorem engineTurn_next {run : Instr → State → Out} (h : engineTurn run s = .next t) :
    (s.status.busy = false ∧ t = s) ∨
    (s.status.busy = true ∧ ∃ i, decode s.cmd = .ok i ∧ run i s = .next t) := by
  unfold engineTurn at h
  split at h
  · next hb =>
    split at h
    · next i hi => exact .inr ⟨hb, i, hi, h⟩
    · cases h
  · next hb => cases h; exact .inl ⟨by simpa using hb, rfl⟩

/-- A state with PFAULT = 1 is faulted (R29). -/
theorem step_pfault (h : s.pfault = true) : step s = .fault .protocol := by
  simp [step, stepWith, h]

/-- The next entry of the agenda acts. -/
theorem step_cons {e : Event} {rest : List Event} (hp : s.pfault = false) (h : s.agenda = e :: rest) :
    step s = act exec e { s with agenda := rest } := by
  unfold step stepWith
  rw [if_neg (by simp [hp]), h]

/-- With nothing on the agenda the ENGINE runs on while busy, and an idle engine takes no step (R21). -/
theorem step_nil (hp : s.pfault = false) (h : s.agenda = []) :
    step s = if s.status.busy then engineTurn exec (freeTick s) else .next s := by
  unfold step stepWith
  rw [if_neg (by simp [hp]), h]

/-- The ENGINE's turn while busy is one step of the latched command (R10). -/
theorem engineTurn_busy {run : Instr → State → Out} {i : Instr} (hb : s.status.busy = true)
    (hd : decode s.cmd = .ok i) : engineTurn run s = run i s := by
  simp [engineTurn, hb, hd]

/-- A command meets its issue only while the engine is not busy: its checks, then its start (R26). -/
theorem exec_issue (i : Instr) (hb : s.status.busy = false) :
    exec i s = issueChecked i (if isAccessor i then startAccess else startReader) s := by
  cases i <;> simp [exec, execReadBit, execWriteBit, execReadBits, execWriteBits, execReadByte,
    execWriteByte, execReadWord, execWriteWord, execReadWords, execWriteWords, execReadBytes,
    execWriteBytes, execReadBytesS, execWriteBytesS, execFifoGetPacket, accessor_issue hb, isAccessor, hb]

end Sys2Proof.Machine
end

