-- ==== Sys2Proof/Machine/Asm.lean ====
section
/-! DEFINITION. The assembly syntax (R65, R66): the command a line stands for, and the spelling of the host
port operations. No step of the machine reads text. -/

namespace Sys2Proof.Machine

/-- The value of one digit in a base up to 16. -/
def digitValue (base : Nat) (c : Char) : Option Nat :=
  let v := if '0' ≤ c ∧ c ≤ '9' then c.toNat - '0'.toNat
    else if 'a' ≤ c ∧ c ≤ 'f' then c.toNat - 'a'.toNat + 10
    else if 'A' ≤ c ∧ c ≤ 'F' then c.toNat - 'A'.toNat + 10
    else 16
  if v < base then some v else none

/-- The digits of a number, most significant first, after `acc`. -/
def digitsValue (base acc : Nat) : List Char → Option Nat
  | [] => some acc
  | c :: rest =>
    match digitValue base c with
    | some d => digitsValue base (acc * base + d) rest
    | none => none

/-- A number "in decimal or with a `0x` prefix" (R65). -/
def asmNumber (cs : List Char) : Option Nat :=
  match cs with
  | [] => none
  | ['0', 'x'] => none
  | '0' :: 'x' :: rest => digitsValue 16 0 rest
  | c :: rest => digitsValue 10 0 (c :: rest)

/-- A number below `2^w`. -/
def asmUnsigned (w : Nat) (cs : List Char) : Option (BitVec w) :=
  match asmNumber cs with
  | some n => if n < 2 ^ w then some (BitVec.ofNat w n) else none
  | none => none

/-- A value that may be a negative decimal: its 32-bit two's-complement pattern (R65). -/
def asmSigned (cs : List Char) : Option Data :=
  match cs with
  | '-' :: rest =>
    match rest, digitsValue 10 0 rest with
    | _ :: _, some n => if n ≤ 2 ^ 31 then some (BitVec.ofInt 32 (-(n : Int))) else none
    | _, _ => none
  | _ => asmUnsigned 32 cs

/-- A line cut at its commas; spaces are dropped. `cur` is the current piece, reversed. -/
def asmPieces (cur : List Char) : List Char → List (List Char)
  | [] => [cur.reverse]
  | ',' :: rest => cur.reverse :: asmPieces [] rest
  | ' ' :: rest => asmPieces cur rest
  | c :: rest => asmPieces (c :: cur) rest

/-- The mnemonic of a line, and its operands. -/
def asmLine (line : List Char) : List Char × List (List Char) :=
  let mnemonic := line.takeWhile (· != ' ')
  let operands := line.dropWhile (· != ' ')
  (mnemonic, if operands.all (· == ' ') then [] else asmPieces [] operands)

/-- A command with the operands `reg` and a 32-bit count. -/
def asmCounted (k : RegAddr → Data → Instr) (ops : List (List Char)) : Option Instr :=
  match ops with
  | [r, n] => do return k (← asmUnsigned 8 r) (← asmUnsigned 32 n)
  | _ => none

/-- The command a line stands for, the pseudo-instructions included (R65, R66). -/
def asmParse (p : Params) (line : String) : Option Instr :=
  match String.ofList (asmLine line.toList).1, (asmLine line.toList).2 with
  | "read_bit", [r, b] => do return .readBit (← asmUnsigned 8 r) (← asmUnsigned 3 b)
  | "write_bit", [r, b, v] => do
    return .writeBit (← asmUnsigned 8 r) (← asmUnsigned 3 b) ((← asmUnsigned 1 v) == 1)
  | "read_bits", [r, s, l] => do
    return .readBits (← asmUnsigned 8 r) (← asmUnsigned 3 s) (← asmUnsigned 4 l)
  | "write_bits", [r, s, l, v] => do
    return .writeBits (← asmUnsigned 8 r) (← asmUnsigned 3 s) (← asmUnsigned 4 l) (← asmSigned v)
  | "read_byte", [r] => do return .readByte (← asmUnsigned 8 r)
  | "write_byte", [r, b] => do return .writeByte (← asmUnsigned 8 r) (← asmUnsigned 8 b)
  | "read_word", [r] => do return .readWord (← asmUnsigned 8 r)
  | "write_word", [r, v] => do return .writeWord (← asmUnsigned 8 r) (← asmSigned v)
  | "read_words", ops => asmCounted .readWords ops
  | "write_words", ops => asmCounted .writeWords ops
  | "read_bytes", ops => asmCounted .readBytes ops
  | "write_bytes", ops => asmCounted .writeBytes ops
  | "read_bytes_s", ops => asmCounted .readBytesS ops
  | "write_bytes_s", ops => asmCounted .writeBytesS ops
  | "fifo_get_packet", [n] => do return .fifoGetPacket (← asmUnsigned 32 n)
  | "set_bit", [r, b] => do return pseudoSetBit (← asmUnsigned 8 r) (← asmUnsigned 3 b)
  | "clear_bit", [r, b] => do return pseudoClearBit (← asmUnsigned 8 r) (← asmUnsigned 3 b)
  | "fifo_reset", [] => some (pseudoFifoReset p)
  | "fifo_count", [] => some (pseudoFifoCount p)
  | _, _ => none

/-- The spelling of a host port operation that is no command (R65). -/
def Event.asm : Event → Option String
  | .writeBuf i b => some ("buf " ++ asmOperands [i.repr, b.toNat.repr])
  | .readReg 0 => some "rd STATUS"
  | .readReg 1 => some "rd RESULT"
  | .readReg 2 => some "rd FIFOCOUNT"
  | .readReg 3 => some "rd CMD_LO"
  | .readReg 4 => some "rd CMD_HI"
  | .readBuf i => some ("rd BUF[" ++ i.repr ++ "]")
  | .readReg _ => none
  | .issue _ => none
  | .writeReg _ _ => none
  | .reset => none
  | .tick _ => none
  | .engine => none

end Sys2Proof.Machine
end

