-- ==== Sys2Proof/Tests/Slice0.lean ====
section
/-! SUPPORT. The model's own tests. Words and expected values are those of spec/95_test_vectors.md (the
vector is named at each test) unless the comment says otherwise; the last part gives, for every obligation
that has hypotheses, concrete states and operands that meet them, clause by clause. -/

open Sys2Proof Sys2Proof.Machine Sys2Proof.Expect Host

namespace Sys2Proof.Tests

/-! ### Well-formedness: each check refuses an ill-formed command -/

theorem test_fieldInByte_length_above_8 :
    (Instr.readBits 0x1A 7 9).wellFormed Params.reference = false := by decide
theorem test_fieldInByte_below_bit_0 :
    (Instr.writeBits 0x1A 1 3 0).wellFormed Params.reference = false := by decide
theorem test_countWithin_zero : (Instr.readWords 0x3B 0).wellFormed Params.reference = false := by decide
theorem test_countWithin_words : (Instr.writeWords 0 129).wellFormed Params.reference = false := by decide
theorem test_countWithin_block : (Instr.readBytes 0x3B 33).wellFormed Params.reference = false := by decide
theorem test_countWithin_bytes :
    (Instr.readBytesS 0 257).wellFormed Params.reference = false := by decide
theorem test_countWithin_packet : (Instr.fifoGetPacket 257).wellFormed Params.reference = false := by decide
theorem test_registersExist_word : (Instr.readWord 0xFF).wellFormed Params.reference = false := by decide
theorem test_registersExist_block :
    (Instr.writeBytes 0xF0 17).wellFormed Params.reference = false := by decide
theorem test_inWordRange_negative :
    (Instr.writeWord 0x13 0xFFFFFFFF).wellFormed Params.reference = false := by decide
theorem test_inWordRange_above :
    (Instr.writeWord 0x13 0x10000).wellFormed Params.reference = false := by decide
theorem test_wellFormed_edges :
    (Instr.readBits 0x1A 7 8).wellFormed Params.reference = true ∧
    (Instr.readWords 0 128).wellFormed Params.reference = true ∧
    (Instr.readBytes 0xE0 32).wellFormed Params.reference = true ∧
    (Instr.readWord 0xFE).wellFormed Params.reference = true ∧
    (Instr.writeWord 0x13 0xFFFF).wellFormed Params.reference = true := by decide

/-! ### Decoding: the words of section 2 -/

theorem test_decode_bit_commands :
    decode 0x16A0400000000000 = .ok (.readBit 0x6A 2) ∧
    decode 0x26A0400000000001 = .ok (.writeBit 0x6A 2 true) ∧
    decode 0x26B0C00000000000 = .ok (.writeBit 0x6B 6 false) ∧
    decode 0x31A3800000000000 = .ok (.readBits 0x1A 4 3) ∧
    decode 0x46A1C00000000001 = .ok (.writeBits 0x6A 6 1 1) := by decide
theorem test_decode_byte_and_word_commands :
    decode 0x5750000000000000 = .ok (.readByte 0x75) ∧
    decode 0x66B0000000000001 = .ok (.writeByte 0x6B 1) ∧
    decode 0x7130000000000000 = .ok (.readWord 0x13) ∧
    decode 0x81300000FFFFFFFF = .ok (.writeWord 0x13 0xFFFFFFFF) := by decide
theorem test_decode_block_commands :
    decode 0x93B0000000000003 = .ok (.readWords 0x3B 3) ∧
    decode 0xA130000000000002 = .ok (.writeWords 0x13 2) ∧
    decode 0xB3B000000000000E = .ok (.readBytes 0x3B 14) ∧
    decode 0xC6A0000000000002 = .ok (.writeBytes 0x6A 2) ∧
    decode 0xD3B000000000000E = .ok (.readBytesS 0x3B 14) ∧
    decode 0xE6A0000000000002 = .ok (.writeBytesS 0x6A 2) := by decide
theorem test_decode_packet_command : decode 0xF00000000000001C = .ok (.fifoGetPacket 28) := by decide

/-- V-B7 and V-D1 to V-D6, each refused by the name of the field at fault. -/
theorem test_decode_refuses :
    decode 0x26A0000000000002 = .error .bitValueTooWide ∧
    decode 0x0000000000000000 = .error .opZero ∧
    decode 0x5750000100000000 = .error .rsvdNotZero ∧
    decode 0x5751000000000000 = .error .lenNotZero ∧
    decode 0x16A0400000000001 = .error .dataNotZero ∧
    decode 0x66B0000000000100 = .error .byteValueTooWide ∧
    decode 0xF01000000000001C = .error .regNotZero ∧
    decode 0x5750200000000000 = .error .startNotZero := by decide

/-- Section 2's pseudo-instructions (R66). -/
theorem test_pseudo_instructions :
    encode (pseudoFifoReset Params.reference) = 0x26A0400000000001 ∧
    encode (pseudoFifoCount Params.reference) = 0x7720000000000000 ∧
    encode (pseudoSetBit 0x6B 7) = 0x26B0E00000000001 ∧
    encode (pseudoClearBit 0x6B 6) = 0x26B0C00000000000 := by decide

/-- Lines of sections 2, 3 and 5 and their words; a bit value of 2 is no line. -/
theorem test_asmParse :
    (asmParse Params.reference "read_bit 0x6A, 2").map encode = some 0x16A0400000000000 ∧
    (asmParse Params.reference "write_word 0x13, -1234").map encode = some 0x81300000FFFFFB2E ∧
    (asmParse Params.reference "write_bits 0x1B, 7, 3, -1").map encode = some 0x41B3E000FFFFFFFF ∧
    (asmParse Params.reference "read_bytes_s 0x3B, 14").map encode = some 0xD3B000000000000E ∧
    (asmParse Params.reference "clear_bit 0x6B, 6").map encode = some 0x26B0C00000000000 ∧
    (asmParse Params.reference "fifo_reset").map encode = some 0x26A0400000000001 ∧
    asmParse Params.reference "write_bit 0x6A, 2, 2" = none := by decide +kernel

/-- What `Instr.asm` writes, in decimal, reads back (R65). -/
theorem test_asm :
    (Instr.writeWord 0x13 0xFFFFFFFF).asm = "write_word 19, -1" ∧
    asmParse Params.reference (Instr.writeWord 0x13 0xFFFFFFFF).asm = some (.writeWord 0x13 0xFFFFFFFF) ∧
    (Event.readBuf 3).asm = some "rd BUF[3]" ∧ (Event.writeBuf 0 0x12).asm = some "buf 0, 18" := by
  decide +kernel

theorem test_decodeTableWord :
    decodeTableWord 64 0x26A0400000000001 = some (.writeBit 0x6A 2 true) ∧
    decodeTableWord 64 0 = none := by decide

/-! ### One step of each command -/

/-- The next state, if there is one. -/
def nextOf : Out → Option State
  | .next t => some t
  | .fault _ => none
  | .refused _ => none

/-- Why the machine stopped, if it did. -/
def faultOf : Out → Option Fault
  | .next _ => none
  | .fault f => some f
  | .refused _ => none

/-- RESULT and STATUS after a step. -/
def resultStatus (o : Out) : Option (Data × Data) := (nextOf o).map fun t => (t.result, t.statusWord)

/-- The last transaction of a step. -/
def lastExchange (o : Out) : Option Exchange := (nextOf o).bind fun t => t.bus.head?

/-- `i` is being executed, its next transaction is number `seq`, and the transport answers `replies`. -/
def during (i : Instr) (seq : Half) (replies : List Reply) : State :=
  { State.reset with
    fsm := .access, seq := seq, cmd := encode i, replies := replies,
    status := { Status.reset with busy := true } }

/-- The reader is in control state `f` with packet size `p`. -/
def reading (f : Fsm) (p : Data) (replies : List Reply) : State :=
  { State.reset with
    fsm := f, cmd := encode (.fifoGetPacket p), replies := replies,
    status := { Status.reset with busy := true } }

/-- V-B1 and V-B2. -/
theorem test_readBit :
    resultStatus (exec (.readBit 0x6A 2) (during (.readBit 0x6A 2) 0 [.ok [0x44]])) = some (1, 2) ∧
    resultStatus (exec (.readBit 0x6A 7) (during (.readBit 0x6A 7) 0 [.ok [0x44]])) = some (0, 2) := by
  decide +kernel

/-- V-B3. -/
theorem test_writeBit_sets :
    lastExchange (exec (.writeBit 0x6A 2 true)
      { during (.writeBit 0x6A 2 true) 1 [.ok []] with tmp := 0x40 }) =
    some ⟨.writeByte 0x6A 0x44, .ok []⟩ := by decide +kernel

/-- V-B4. -/
theorem test_writeBit_clears :
    resultStatus (exec (.writeBit 0x6A 6 false)
      { during (.writeBit 0x6A 6 false) 1 [.ok []] with tmp := 0x44 }) = some (4, 2) := by decide +kernel

/-- V-B8 and V-B12. -/
theorem test_readBits :
    resultStatus (exec (.readBits 0x1A 4 3) (during (.readBits 0x1A 4 3) 0 [.ok [0x1C]])) = some (7, 2) ∧
    resultStatus (exec (.readBits 0x1A 5 0) (during (.readBits 0x1A 5 0) 0 [.ok [0x1C]])) =
      some (0, 2) := by decide +kernel

/-- V-B14. -/
theorem test_writeBits :
    resultStatus (exec (.writeBits 0x1B 4 2 0)
      { during (.writeBits 0x1B 4 2 0) 1 [.ok []] with tmp := 0xFF }) = some (0xE7, 2) := by decide +kernel

/-- V-B16: a value with bits outside the field. -/
theorem test_writeBits_masks :
    resultStatus (exec (.writeBits 0x1B 7 3 0xFFFFFFFF)
      { during (.writeBits 0x1B 7 3 0xFFFFFFFF) 1 [.ok []] with tmp := 0 }) = some (0xE0, 2) := by
  decide +kernel

/-- V-W1. -/
theorem test_readByte :
    resultStatus (exec (.readByte 0x75) (during (.readByte 0x75) 0 [.ok [0x68]])) = some (0x68, 2) := by
  decide +kernel

/-- V-W2: no read is issued. -/
theorem test_writeByte :
    lastExchange (exec (.writeByte 0x6B 1) (during (.writeByte 0x6B 1) 0 [.ok []])) =
      some ⟨.writeByte 0x6B 1, .ok []⟩ := by decide +kernel

/-- V-W8: high byte first, unsigned. -/
theorem test_readWord :
    resultStatus (exec (.readWord 0x13) (during (.readWord 0x13) 0 [.ok [0xFB, 0x2E]])) =
      some (0xFB2E, 2) := by decide +kernel

/-- V-W8. -/
theorem test_writeWord :
    lastExchange (exec (.writeWord 0x13 0xFB2E) (during (.writeWord 0x13 0xFB2E) 0 [.ok []])) =
      some ⟨.write 0x13 [0xFB, 0x2E], .ok []⟩ := by decide +kernel

/-- V-W5, V-W6 and V-D9: E_RANGE, and E_ADDR before it. -/
theorem test_writeWord_refused :
    resultStatus (exec (.writeWord 0x13 0xFFFFFFFF) State.reset) = some (0, 0x16) ∧
    resultStatus (exec (.writeWord 0x13 0x10000) State.reset) = some (0, 0x16) ∧
    resultStatus (exec (.writeWord 0xFF 0xFFFFFFFF) State.reset) = some (0, 0x12) := by decide +kernel

/-- V-K1, third transaction. -/
theorem test_readWords_last :
    (nextOf (exec (.readWords 0x3B 3)
      { during (.readWords 0x3B 3) 2 [.ok [0xFF, 0xFE]] with
        buf := [(0, 0x40), (1, 0), (2, 1), (3, 2)] })).map (fun t => (t.buf, t.statusWord, t.bus)) =
    some ([(0, 0x40), (1, 0), (2, 1), (3, 2), (4, 0xFF), (5, 0xFE)], 0x00060002,
      [⟨.read 0x3F 2, .ok [0xFF, 0xFE]⟩]) := by decide +kernel

/-- V-E3, second transaction. -/
theorem test_readWords_error :
    (nextOf (exec (.readWords 0x3B 3)
      { during (.readWords 0x3B 3) 1 [.error] with buf := [(0, 1), (1, 0)] })).map
      (fun t => (t.buf, t.result, t.statusWord)) = some ([(0, 1), (1, 0)], 0x3D, 0x1A) := by decide +kernel

/-- V-K6, second transaction. -/
theorem test_writeWords_last :
    lastExchange (exec (.writeWords 0x13 2)
      { during (.writeWords 0x13 2) 1 [.ok []] with
        buf := [(0, 4), (1, 0xD2), (2, 0xFB), (3, 0x2E)] }) =
    some ⟨.write 0x15 [0xFB, 0x2E], .ok []⟩ := by decide +kernel

/-- R33 and D37: issued with three of its four source bytes written, it faults whatever would come. -/
theorem test_writeWords_unwritten :
    faultOf (step (({ State.reset with buf := [(0, 4), (1, 0xD2), (2, 0xFB)], replies := [.error] }
      : State).withFetchWord 64 0xA130000000000002)) = some .unwrittenBuf := by decide +kernel

/-- V-K18. -/
theorem test_readBytes :
    (nextOf (exec (.readBytes 0x74 4) (during (.readBytes 0x74 4) 0 [.ok [9, 8, 7, 6]]))).map
      (fun t => (t.buf, t.statusWord)) = some ([(0, 9), (1, 8), (2, 7), (3, 6)], 0x00040002) := by
  decide +kernel

/-- V-K9 and V-K11. -/
theorem test_readBytes_refused :
    resultStatus (exec (.readBytes 0x3B 33) State.reset) = some (0, 0xE) ∧
    resultStatus (exec (.readBytes 0xF0 17) State.reset) = some (0, 0x12) := by decide +kernel

/-- V-K16. -/
theorem test_writeBytes :
    lastExchange (exec (.writeBytes 0x6A 2)
      { during (.writeBytes 0x6A 2) 0 [.ok []] with buf := [(0, 0), (1, 0x10)] }) =
    some ⟨.write 0x6A [0, 0x10], .ok []⟩ := by decide +kernel

/-- R33 and D37: the last source byte is unwritten. -/
theorem test_writeBytes_unwritten :
    faultOf (exec (.writeBytes 0x6A 2) { State.reset with buf := [(0, 0)] }) = some .unwrittenBuf := by
  decide +kernel

/-- V-K8, last transaction (earlier bytes left out). -/
theorem test_readBytesS_last :
    (nextOf (exec (.readBytesS 0x3B 14) (during (.readBytesS 0x3B 14) 13 [.ok [0xD0]]))).map
      (fun t => (t.buf, t.statusWord, t.bus)) =
    some ([(13, 0xD0)], 0x000E0002, [⟨.readByte 0x48, .ok [0xD0]⟩]) := by decide +kernel

/-- V-K14 and V-K15. -/
theorem test_readBytesS_refused :
    resultStatus (exec (.readBytesS 1 256) State.reset) = some (0, 0x12) ∧
    resultStatus (exec (.readBytesS 0 257) State.reset) = some (0, 0xE) := by decide +kernel

/-- V-K17, second transaction. -/
theorem test_writeBytesS_last :
    lastExchange (exec (.writeBytesS 0x6A 2)
      { during (.writeBytesS 0x6A 2) 1 [.ok []] with buf := [(0, 0), (1, 0x10)] }) =
    some ⟨.writeByte 0x6B 0x10, .ok []⟩ := by decide +kernel

/-- V-E4, third transaction. -/
theorem test_writeBytesS_error :
    resultStatus (exec (.writeBytesS 0x20 3)
      { during (.writeBytesS 0x20 3) 2 [.error] with buf := [(0, 1), (1, 2), (2, 3)] }) =
    some (0x22, 0x1A) := by decide +kernel

/-- V-F3, last step: NOW - T0 = 11000 is not expired, 11001 is. -/
theorem test_fifoGetPacket_deadline :
    resultStatus (exec (.fifoGetPacket 28)
      { reading .polling 28 [.ok [0, 0]] with now := 11001 }) = some (0, 0x1202) ∧
    resultStatus (exec (.fifoGetPacket 28)
      { reading .polling 28 [.ok [0, 0]] with now := 11000 }) = some (0, 0x41) := by decide +kernel

/-- V-F14, last step: the second chunk of 8 bytes fails. -/
theorem test_fifoGetPacket_error :
    (nextOf (exec (.fifoGetPacket 40)
      { reading .readPacket 40 [.error] with idx := 32, remain := 8 })).map
      (fun t => (t.result, t.statusWord, t.bus)) =
    some (0x74, 0x1A, [⟨.read 0x74 8, .error⟩]) := by decide +kernel

/-! ### The step, the host port and reset -/

/-- A command placed for the next step is issued (R26, R27): BUSY, FSM = ACCESS. -/
theorem test_step_issues :
    resultStatus (step (State.reset.withFetchWord 64 0x16A0400000000000)) = some (0, 0x241) := by
  decide +kernel

/-- V-H1. -/
theorem test_issue_while_busy :
    (nextOf (step { reading .polling 28 [] with agenda := [.issue 0x5750000000000000] })).map
      (fun t => (t.pfault, t.fsm, t.cmd)) = some (true, .polling, 0xF00000000000001C) := by decide +kernel

/-- V-H3, and the fault a state with PFAULT = 1 takes. -/
theorem test_read_of_register_5 :
    (nextOf (step { State.reset with agenda := [.readReg 5] })).map (fun t => t.pfault) = some true ∧
    faultOf (step { State.reset with pfault := true }) = some .protocol := by decide +kernel

/-- V-H5 and V-H6. -/
theorem test_host_buffer :
    faultOf (step { State.reset with agenda := [.readBuf 0] }) = some .unwrittenBuf ∧
    (nextOf (step { State.reset with agenda := [.writeBuf 0 0x12] })).map (fun t => t.buf.read 0) =
      some (some 0x12) := by decide +kernel

/-- V-H4. -/
theorem test_registers_after_reset :
    [0, 1, 2, 3, 4].map (fun n => regValue n State.reset) = List.replicate 5 (some 0) := by decide +kernel

/-- V-R2: reset between the read and the write of a read-modify-write. -/
theorem test_reset_between_steps :
    (nextOf (step { during (.writeBit 0x6A 2 true) 1 [.ok []] with agenda := [.reset] })).map
      (fun t => (t.statusWord, t.fsm, t.bus)) = some (0, .idle, []) := by decide +kernel

/-! ### Witnesses: states and operands that meet the hypotheses of each statement -/

/-- `s` with HOST_ISSUE of `w` next. -/
def issuing (w : Cmd) (s : State) : State := { s with agenda := [.issue w] }

/-- `s` with one ENGINE step next. -/
def turning (s : State) : State := { s with agenda := [.engine] }

theorem witness_WorkedEncodingsDecode : State.reset.status.busy = false := rfl

theorem witness_EncodeOfDecodeIsTheWord :
    ∃ i, decode 0x46A1C00000000001 = .ok i := ⟨.writeBits 0x6A 6 1 1, by decide⟩

/-- One word for each case of R60; the host port is free to issue it. -/
theorem witness_IllegalWordsRaiseIllegal :
    (Illegal 0 ∧ Illegal 0x5750000100000000 ∧ Illegal 0x5751000000000000 ∧ Illegal 0x5750200000000000 ∧
      Illegal 0x16A0400000000001 ∧ Illegal 0xF01000000000001C ∧ Illegal 0x26A0000000000002 ∧
      Illegal 0x66B0000000000100) ∧
    ¬Illegal 0x16A0400000000000 ∧
    (issuing 0 State.reset).pfault = false ∧ (issuing 0 State.reset).status.busy = false ∧
    (issuing 0 State.reset).agenda = [.issue 0] := by
  unfold Illegal
  refine ⟨⟨?_, ?_, ?_, ?_, ?_, ?_, ?_, ?_⟩, ?_, rfl, rfl, rfl⟩ <;> decide

theorem witness_IssueStepRunsTheDecodedCommand :
    State.reset.pfault = false ∧ State.reset.status.busy = false ∧
    decode 0xF00000000000001C = .ok (.fifoGetPacket 28) := by decide

theorem witness_EngineStepRunsTheLatchedCommand :
    (turning (during (.readByte 0x75) 0 [])).pfault = false ∧
    (turning (during (.readByte 0x75) 0 [])).status.busy = true ∧
    decode (turning (during (.readByte 0x75) 0 [])).cmd = .ok (.readByte 0x75) ∧
    (turning (during (.readByte 0x75) 0 [])).agenda = [.engine] ∧
    (during (.readByte 0x75) 0 []).agenda = [] := by decide

/-- Not busy, with the first two bytes of BUF written. -/
def bothWritten : State := { State.reset with buf := [(0, 0), (1, 0x10)] }

theorem witness_HostIssueLatchesChecksAndStarts :
    (issuing 0 (during (.readByte 0x75) 0 [])).pfault = false ∧
    (issuing 0 (during (.readByte 0x75) 0 [])).status.busy = true ∧
    State.reset.pfault = false ∧ State.reset.status.busy = false ∧
    decode 0 = .error .opZero ∧
    decode 0x7FE0000000000000 = .ok (.readWord 0xFE) ∧
    (Instr.readWord 0xFE).wellFormed State.reset.cfg = true ∧
    SourceWritten (.readWord 0xFE) State.reset ∧
    decode 0xC6A0000000000002 = .ok (.writeBytes 0x6A 2) ∧
    (Instr.writeBytes 0x6A 2).wellFormed bothWritten.cfg = true ∧
    SourceWritten (.writeBytes 0x6A 2) bothWritten ∧
    decode 0x7FF0000000000000 = .ok (.readWord 0xFF) ∧
    (Instr.readWord 0xFF).wellFormed State.reset.cfg = false := by unfold SourceWritten; decide

/-- Each clause at the edge of its range; the reset state can issue. -/
theorem witness_IssueChecksRunInOrder :
    State.reset.pfault = false ∧ State.reset.status.busy = false ∧
    (decode 0x31A3200000000000 = .ok (.readBits 0x1A 1 3) ∧ FieldBad (.readBits 0x1A 1 3)) ∧
    (decode 0xB3B0000000000021 = .ok (.readBytes 0x3B 33) ∧ ¬FieldBad (.readBytes 0x3B 33) ∧
      LengthBad State.reset.cfg (.readBytes 0x3B 33)) ∧
    (decode 0xBF00000000000011 = .ok (.readBytes 0xF0 17) ∧ ¬FieldBad (.readBytes 0xF0 17) ∧
      ¬LengthBad State.reset.cfg (.readBytes 0xF0 17) ∧ AddrBad (.readBytes 0xF0 17)) ∧
    (decode 0x8FE0000000010000 = .ok (.writeWord 0xFE 0x10000) ∧ ¬FieldBad (.writeWord 0xFE 0x10000) ∧
      ¬LengthBad State.reset.cfg (.writeWord 0xFE 0x10000) ∧ ¬AddrBad (.writeWord 0xFE 0x10000) ∧
      RangeBad (.writeWord 0xFE 0x10000)) ∧
    (decode 0x8FE000000000FFFF = .ok (.writeWord 0xFE 0xFFFF) ∧ ¬FieldBad (.writeWord 0xFE 0xFFFF) ∧
      ¬LengthBad State.reset.cfg (.writeWord 0xFE 0xFFFF) ∧ ¬AddrBad (.writeWord 0xFE 0xFFFF) ∧
      ¬RangeBad (.writeWord 0xFE 0xFFFF) ∧ SourceWritten (.writeWord 0xFE 0xFFFF) State.reset) ∧
    (decode 0xAFE0000000000001 = .ok (.writeWords 0xFE 1) ∧ ¬FieldBad (.writeWords 0xFE 1) ∧
      ¬LengthBad State.reset.cfg (.writeWords 0xFE 1) ∧ ¬AddrBad (.writeWords 0xFE 1) ∧
      ¬RangeBad (.writeWords 0xFE 1) ∧ SourceWritten (.writeWords 0xFE 1) bothWritten) := by
  unfold FieldBad LengthBad AddrBad RangeBad SourceWritten; decide

theorem witness_FieldOutsideOneByteRaisesField :
    State.reset.status.busy = false ∧
    (9#4).toNat > 8 ∧ (3#4).toNat > (1#3).toNat + 1 ∧
    ((8#4).toNat ≤ 8 ∧ (8#4).toNat ≤ (7#3).toNat + 1) ∧
    ((0#4).toNat ≤ 8 ∧ (0#4).toNat ≤ (0#3).toNat + 1) := by decide

theorem witness_CountOutOfRangeRaisesLength :
    State.reset.status.busy = false ∧ State.reset.cfg.bufSize / 2 = 128 ∧ State.reset.cfg.maxBlock = 32 ∧
    State.reset.cfg.bufSize = 256 ∧ ¬(1 ≤ (0#32).toNat ∧ (0#32).toNat ≤ 128) ∧
    ¬(1 ≤ (129#32).toNat ∧ (129#32).toNat ≤ 128) ∧ ¬(1 ≤ (33#32).toNat ∧ (33#32).toNat ≤ 32) ∧
    ¬(1 ≤ (257#32).toNat ∧ (257#32).toNat ≤ 256) := by decide

/-- V-W10, V-K5, V-K11 and V-K14. -/
theorem witness_SpanPastTheLastRegisterRaisesAddr :
    State.reset.status.busy = false ∧ (0xFF#8).toNat + 2 - 1 > 0xFF ∧
    ((128#32).toNat ≤ State.reset.cfg.bufSize / 2 ∧ (1#8).toNat + 2 * (128#32).toNat - 1 > 0xFF) ∧
    ((17#32).toNat ≤ State.reset.cfg.maxBlock ∧ (0xF0#8).toNat + (17#32).toNat - 1 > 0xFF) ∧
    ((256#32).toNat ≤ State.reset.cfg.bufSize ∧ (1#8).toNat + (256#32).toNat - 1 > 0xFF) := by decide

theorem witness_WordOutsideItsRangeRaisesRange :
    State.reset.status.busy = false ∧ (0xFE#8).toNat + 2 - 1 ≤ 0xFF ∧
    (0xFFFFFFFF#32).toInt < 0 ∧ (0x10000#32).toInt > 0xFFFF ∧
    (0 ≤ (0#32).toInt ∧ (0#32).toInt ≤ 0xFFFF) ∧ (0 ≤ (0xFFFF#32).toInt ∧ (0xFFFF#32).toInt ≤ 0xFFFF) := by
  decide

theorem witness_AccessorIssueEntersAccess :
    isAccessor (.readBytes 0xE0 32) = true ∧
    (Instr.readBytes 0xE0 32).wellFormed State.reset.cfg = true ∧
    SourceWritten (.readBytes 0xE0 32) State.reset ∧ State.reset.status.busy = false ∧
    isAccessor (.writeBytes 0x6A 2) = true ∧
    (Instr.writeBytes 0x6A 2).wellFormed bothWritten.cfg = true ∧
    SourceWritten (.writeBytes 0x6A 2) bothWritten ∧ bothWritten.status.busy = false := by
  unfold SourceWritten; decide

/-- The last byte of the source is the unwritten one. -/
def threeWritten : State := { State.reset with buf := [(0, 1), (1, 2), (2, 3)] }

theorem witness_IssueOverUnwrittenBytesFaults :
    threeWritten.status.busy = false ∧ threeWritten.buf.read 3 = none ∧
    (3 < 2 * (2#32).toNat ∧ (Instr.writeWords 0xFC 2).wellFormed threeWritten.cfg = true) ∧
    (3 < (4#32).toNat ∧ (Instr.writeBytes 0xFC 4).wellFormed threeWritten.cfg = true ∧
      (Instr.writeBytesS 0xFC 4).wellFormed threeWritten.cfg = true) ∧
    (issuing 0xAFC0000000000002 threeWritten).pfault = false ∧
    (issuing 0xAFC0000000000002 threeWritten).agenda = .issue 0xAFC0000000000002 :: [] ∧
    decode 0xAFC0000000000002 = .ok (.writeWords 0xFC 2) ∧
    ¬SourceWritten (.writeWords 0xFC 2) (issuing 0xAFC0000000000002 threeWritten) := by
  unfold SourceWritten; decide

theorem witness_ReaderIssueCapturesTheDeadline :
    State.reset.status.busy = false ∧ 1 ≤ (1#32).toNat ∧ (1#32).toNat ≤ State.reset.cfg.bufSize ∧
    1 ≤ (256#32).toNat ∧ (256#32).toNat ≤ State.reset.cfg.bufSize := by decide

theorem witness_MaskBitsAreTheField :
    ((8#4).toNat ≤ 8 ∧ (8#4).toNat ≤ (7#3).toNat + 1) ∧ ((0#4).toNat ≤ 8 ∧ (0#4).toNat ≤ (0#3).toNat + 1) ∧
    ((1#4).toNat ≤ 8 ∧ (1#4).toNat ≤ (0#3).toNat + 1) := by decide

theorem witness_ReadBitResult :
    InAccess (during (.readBit 0x6A 7) 0 [.ok [0x80]]) ∧
    replyTo (.readByte 0x6A) (during (.readBit 0x6A 7) 0 [.ok [0x80]]) = .ok [0x80] := by
  unfold InAccess; decide

/-- Both halves, setting bit 7 and clearing bit 0. -/
theorem witness_WriteBitReadsThenWrites :
    (InAccess (during (.writeBit 0x6A 2 true) 0 [.ok [0x40]]) ∧
      (during (.writeBit 0x6A 2 true) 0 [.ok [0x40]]).seq = 0 ∧
      replyTo (.readByte 0x6A) (during (.writeBit 0x6A 2 true) 0 [.ok [0x40]]) = .ok [0x40]) ∧
    (InAccess (during (.writeBit 0x6A 7 true) 1 [.ok []]) ∧
      (during (.writeBit 0x6A 7 true) 1 [.ok []]).seq = 1 ∧
      0x80#8 = (0#8 ||| (1#8 <<< (7#3).toNat)) ∧
      replyTo (.writeByte 0x6A 0x80) (during (.writeBit 0x6A 7 true) 1 [.ok []]) = .ok []) := by
  unfold InAccess; decide

theorem witness_ReadBitsResult :
    InAccess (during (.readBits 0x1A 7 8) 0 [.ok [0x1C]]) ∧ (8#4).toNat ≤ 8 ∧
    (8#4).toNat ≤ (7#3).toNat + 1 ∧
    replyTo (.readByte 0x1A) (during (.readBits 0x1A 7 8) 0 [.ok [0x1C]]) = .ok [0x1C] := by
  unfold InAccess; decide

theorem witness_WriteBitsReadsThenWrites :
    (InAccess (during (.writeBits 0x1B 4 2 0) 0 [.ok [0xFF]]) ∧
      (during (.writeBits 0x1B 4 2 0) 0 [.ok [0xFF]]).seq = 0 ∧
      replyTo (.readByte 0x1B) (during (.writeBits 0x1B 4 2 0) 0 [.ok [0xFF]]) = .ok [0xFF]) ∧
    (InAccess (during (.writeBits 0x1B 4 2 0xFF) 1 [.ok []]) ∧
      (during (.writeBits 0x1B 4 2 0xFF) 1 [.ok []]).seq = 1 ∧
      0x18#8 = BitVec.ofNat 8 (((1 <<< (2#4).toNat) - 1) <<< ((4#3).toNat + 1 - (2#4).toNat)) ∧
      replyTo (.writeByte 0x1B 0x18) (during (.writeBits 0x1B 4 2 0xFF) 1 [.ok []]) = .ok []) := by
  unfold InAccess; decide

/-- The state before the write, and a later state in which the device returns the byte written. -/
theorem witness_FieldWriteReadsBack :
    InAccess (during (.writeBits 0x1A 2 3 3) 1 [.ok []]) ∧ (during (.writeBits 0x1A 2 3 3) 1 [.ok []]).seq = 1 ∧
    NotCut (during (.writeBits 0x1A 2 3 3) 1 [.ok []]) ∧
    (during (.writeBits 0x1A 2 3 3) 1 [.ok []]).replies.head? ≠ some .error ∧
    (during (.writeBits 0x1A 2 3 3) 1 [.ok []]).replies ≠ [] ∧
    InAccess (during (.readBits 0x1A 2 3) 0 [.ok [3]]) ∧ (3#4).toNat ≤ 8 ∧ (3#4).toNat ≤ (2#3).toNat + 1 ∧
    replyTo (.readByte 0x1A) (during (.readBits 0x1A 2 3) 0 [.ok [3]]) = .ok [3] := by
  unfold InAccess NotCut; refine ⟨by decide, by decide, ?_, by decide⟩
  intro b; cases b <;> decide

theorem witness_ByteTransferResults :
    InAccess (during (.readByte 0x75) 0 [.ok [0x68]]) ∧
    replyTo (.readByte 0x75) (during (.readByte 0x75) 0 [.ok [0x68]]) = .ok [0x68] ∧
    InAccess (during (.writeByte 0x6B 1) 0 [.ok []]) ∧
    replyTo (.writeByte 0x6B 1) (during (.writeByte 0x6B 1) 0 [.ok []]) = .ok [] := by
  unfold InAccess; decide

theorem witness_WordTransferResults :
    InAccess (during (.readWord 0x13) 0 [.ok [0xFB, 0x2E]]) ∧
    replyTo (.read 0x13 2) (during (.readWord 0x13) 0 [.ok [0xFB, 0x2E]]) = .ok [0xFB, 0x2E] ∧
    InAccess (during (.writeWord 0x13 0xFB2E) 0 [.ok []]) ∧
    [0xFB, 0x2E] = [(0xFB2E#32).extractLsb' 8 8, (0xFB2E#32).extractLsb' 0 8] ∧
    replyTo (.write 0x13 [0xFB, 0x2E]) (during (.writeWord 0x13 0xFB2E) 0 [.ok []]) = .ok [] := by
  unfold InAccess; decide

/-- The last word of the longest read. -/
theorem witness_ReadWordsStoresOneWordAStep :
    InAccess (during (.readWords 0 128) 127 [.ok [1, 2]]) ∧
    (during (.readWords 0 128) 127 [.ok [1, 2]]).seq.toNat = 127 ∧ 127 < (128#32).toNat ∧
    (128#32).toNat ≤ (during (.readWords 0 128) 127 [.ok [1, 2]]).cfg.bufSize / 2 ∧
    0xFE#8 = BitVec.ofNat 8 ((0#8).toNat + 2 * 127) ∧
    replyTo (.read 0xFE 2) (during (.readWords 0 128) 127 [.ok [1, 2]]) = .ok [1, 2] := by
  unfold InAccess; decide

/-- Both bytes written, and neither. -/
theorem witness_WriteWordsSendsOneWordAStep :
    (∃ s, InAccess s ∧ s.seq.toNat = 1 ∧ 1 < (2#32).toNat ∧ 0x15#8 = BitVec.ofNat 8 ((0x13#8).toNat + 2 * 1) ∧
      s.buf.read (2 * 1) = some 0xFB ∧ s.buf.read (2 * 1 + 1) = some 0x2E ∧
      replyTo (.write 0x15 [0xFB, 0x2E]) s = .ok []) ∧
    (InAccess (during (.writeWords 0x13 2) 0 [.ok []]) ∧
      (during (.writeWords 0x13 2) 0 [.ok []]).buf.read (2 * 0) = none) := by
  unfold InAccess
  exact ⟨⟨{ during (.writeWords 0x13 2) 1 [.ok []] with buf := [(2, 0xFB), (3, 0x2E)] }, by decide⟩,
    by decide⟩

theorem witness_ReadBytesFillsTheBuffer :
    InAccess (during (.readBytes 0x74 4) 0 [.ok [9, 8, 7, 6]]) ∧
    (4#32).toNat ≤ (during (.readBytes 0x74 4) 0 [.ok [9, 8, 7, 6]]).cfg.bufSize ∧
    replyTo (.read 0x74 (4#32).toNat) (during (.readBytes 0x74 4) 0 [.ok [9, 8, 7, 6]]) =
      .ok [9, 8, 7, 6] := by unfold InAccess; decide

theorem witness_WriteBytesSendsTheBuffer :
    (∃ s, InAccess s ∧ [0#8, 0x10].length = (2#32).toNat ∧
      (∀ j, j < (2#32).toNat → s.buf.read j = [0#8, 0x10][j]?) ∧
      replyTo (.write 0x6A [0, 0x10]) s = .ok []) ∧
    (InAccess (during (.writeBytes 0x6A 2) 0 [.ok []]) ∧
      ∃ j, j < (2#32).toNat ∧ (during (.writeBytes 0x6A 2) 0 [.ok []]).buf.read j = none) := by
  unfold InAccess
  exact ⟨⟨{ during (.writeBytes 0x6A 2) 0 [.ok []] with buf := [(0, 0), (1, 0x10)] }, by decide⟩,
    by decide, 1, by decide⟩

/-- The last byte of the longest read (V-K13). -/
theorem witness_ReadBytesSStoresOneByteAStep :
    InAccess (during (.readBytesS 0 256) 255 [.ok [7]]) ∧
    (during (.readBytesS 0 256) 255 [.ok [7]]).seq.toNat = 255 ∧ 255 < (256#32).toNat ∧
    (256#32).toNat ≤ (during (.readBytesS 0 256) 255 [.ok [7]]).cfg.bufSize ∧
    0xFF#8 = BitVec.ofNat 8 ((0#8).toNat + 255) ∧
    replyTo (.readByte 0xFF) (during (.readBytesS 0 256) 255 [.ok [7]]) = .ok [7] := by
  unfold InAccess; decide

theorem witness_WriteBytesSSendsOneByteAStep :
    (∃ s, InAccess s ∧ s.seq.toNat = 1 ∧ 1 < (2#32).toNat ∧ 0x6B#8 = BitVec.ofNat 8 ((0x6A#8).toNat + 1) ∧
      s.buf.read 1 = some 0x10 ∧ replyTo (.writeByte 0x6B 0x10) s = .ok []) ∧
    (InAccess (during (.writeBytesS 0x6A 2) 0 [.ok []]) ∧
      (during (.writeBytesS 0x6A 2) 0 [.ok []]).buf.read 0 = none) := by
  unfold InAccess
  exact ⟨⟨{ during (.writeBytesS 0x6A 2) 1 [.ok []] with buf := [(1, 0x10)] }, by decide⟩, by decide⟩

/-- One command that writes BUF, one that writes TMP and one that writes neither. -/
theorem witness_AccessorStepFrame :
    ∀ i ∈ [Instr.readBytes 0x74 1, .writeBit 0x6A 2 true, .readByte 0x75],
      isAccessor i = true ∧ (during i 0 [.ok [1]]).status.busy = true ∧ NotCut (during i 0 [.ok [1]]) ∧
      (nextOf (exec i (during i 0 [.ok [1]]))).isSome = true := by
  have h : ∀ i, NotCut (during i 0 [.ok [1]]) := by intro i b; cases b <;> simp [during]
  intro i hi
  refine ⟨?_, rfl, h i, ?_⟩ <;> revert i <;> decide

theorem witness_AccessorIgnoresTheClock : isAccessor (.readByte 0x75) = true := rfl

theorem reference_legal : Params.reference.Legal := by decide

/-- A reader state with a legal packet size, no byte read yet, satisfies the invariant. -/
theorem reading_inv {f : Fsm} {p : Data} {replies : List Reply}
    (hf : f ∈ [Fsm.polling, .waiting, .drainReset, .drainResetWait, .drainDiscard])
    (hd : decode (encode (.fifoGetPacket p)) = .ok (.fifoGetPacket p))
    (hw : (Instr.fifoGetPacket p).wellFormed Params.reference = true) : Inv (reading f p replies) := by
  have hr : Running (.fifoGetPacket p) (reading f p replies) := ⟨hd, hw⟩
  refine ⟨reference_legal, ⟨rfl, rfl⟩, ?_, ?_⟩
  · simp only [List.mem_cons, List.not_mem_nil, or_false] at hf
    obtain rfl | rfl | rfl | rfl | rfl := hf <;> simp [StatusOk, reading, Fsm.isBusy, Status.reset]
  · simp only [List.mem_cons, List.not_mem_nil, or_false] at hf
    obtain rfl | rfl | rfl | rfl | rfl := hf <;> first | exact ⟨p, hr⟩ | exact ⟨p, hr, Nat.zero_le _⟩

/-- An accessor command that has just been issued over the bytes `buf`, the ENGINE's turn coming `turns`
times, satisfies the invariant. -/
theorem issued_inv {i : Instr} {replies : List Reply} {buf : Memory} {agenda : List Event}
    (ha : isAccessor i = true) (hd : decode (encode i) = .ok i) (hw : i.wellFormed Params.reference = true)
    (hk : 0 < transactions i) (hb : buf.wf = true ∧ buf.below 256 = true)
    (hs : sourceWritten i buf = true) :
    Inv { during i 0 replies with buf := buf, agenda := agenda } :=
  ⟨reference_legal, hb, by simp [StatusOk, during, Fsm.isBusy, Status.reset], i, ha, ⟨hd, hw⟩, hk, hs⟩

/-- READ_BYTES_S of two bytes after reset: two engine turns, two answers, no byte of BUF written. -/
def wholeRead : State :=
  { during (.readBytesS 0x3B 2) 0 [.ok [1], .ok [2]] with buf := [], agenda := [.engine, .engine] }

/-- WRITE_WORDS of one word: one turn, one answer, and only the two bytes it takes are written. -/
def wholeWrite : State :=
  { during (.writeWords 0x13 1) 0 [.ok []] with buf := [(0, 4), (1, 0xD2)], agenda := [.engine] }

theorem witness_AccessorTakesExactlyItsTransactions :
    (Inv wholeRead ∧ wholeRead.pfault = false ∧ wholeRead.fsm = .access ∧ wholeRead.seq = 0 ∧
      decode wholeRead.cmd = .ok (.readBytesS 0x3B 2) ∧
      wholeRead.agenda = List.replicate (transactions (.readBytesS 0x3B 2)) .engine ++ [] ∧
      transactions (.readBytesS 0x3B 2) ≤ wholeRead.replies.length ∧
      (∀ r ∈ wholeRead.replies, ∃ d, r = .ok d)) ∧
    (Inv wholeWrite ∧ wholeWrite.pfault = false ∧ wholeWrite.fsm = .access ∧ wholeWrite.seq = 0 ∧
      decode wholeWrite.cmd = .ok (.writeWords 0x13 1) ∧
      wholeWrite.agenda = List.replicate (transactions (.writeWords 0x13 1)) .engine ++ [] ∧
      transactions (.writeWords 0x13 1) ≤ wholeWrite.replies.length ∧
      (∀ r ∈ wholeWrite.replies, ∃ d, r = .ok d)) := by
  refine ⟨⟨issued_inv rfl (by decide) (by decide) (by decide) ⟨rfl, rfl⟩ rfl, rfl, rfl, rfl, by decide, rfl,
      by decide, ?_⟩,
    ⟨issued_inv rfl (by decide) (by decide) (by decide) ⟨rfl, rfl⟩ rfl, rfl, rfl, rfl, by decide, rfl,
      by decide, ?_⟩⟩ <;>
  · intro r hr
    simp only [wholeRead, wholeWrite, during, List.mem_cons, List.not_mem_nil, or_false] at hr
    obtain rfl | rfl := hr <;> exact ⟨_, rfl⟩

theorem witness_ByteFormReadsWhatTheBlockFormReads :
    (turning (during (.readBytes 0x3B 2) 0 [.ok [1, 2]])).pfault = false ∧
    InAccess (turning (during (.readBytes 0x3B 2) 0 [.ok [1, 2]])) ∧
    (turning (during (.readBytes 0x3B 2) 0 [.ok [1, 2]])).seq = 0 ∧ 1 ≤ (2#32).toNat ∧
    (2#32).toNat ≤ Params.reference.bufSize ∧ Params.reference.bufSize ≤ 65535 ∧
    [1#8, 2].length = (2#32).toNat ∧
    decode (turning (during (.readBytes 0x3B 2) 0 [.ok [1, 2]])).cmd = .ok (.readBytes 0x3B 2) ∧
    (turning (during (.readBytes 0x3B 2) 0 [.ok [1, 2]])).agenda = .engine :: [] ∧
    (turning (during (.readBytes 0x3B 2) 0 [.ok [1, 2]])).replies = [.ok [1, 2]] := by
  unfold InAccess; decide

/-- Counts 28, 201, 200 and 27 against P = 28 and the threshold 200; 27 before and after the deadline. -/
theorem witness_PollingClassifiesTheCount :
    (∀ d ∈ [[0#8, 28], [0, 201], [0, 200], [0, 27]],
      InReader .polling (reading .polling 28 [.ok d]) ∧
      replyTo (.read (reading .polling 28 [.ok d]).cfg.fifoCountAddr 2) (reading .polling 28 [.ok d]) =
        .ok d) ∧
    InReader .waiting (reading .waiting 28 []) ∧
    count 0 28 = (28#32).toNat ∧
    (count 0 201 > (28#32).toNat ∧ count 0 201 > Params.reference.ovfThreshold) ∧
    (count 0 200 > (28#32).toNat ∧ count 0 200 ≤ Params.reference.ovfThreshold) ∧
    count 0 27 < (28#32).toNat ∧ ¬Expired { reading .polling 28 [] with now := 11000 } ∧
    Expired { reading .polling 28 [] with now := 11001 } := by
  unfold InReader Expired; decide

theorem witness_FifoResetSetsOneBit :
    (InReader .drainReset (reading .drainReset 28 [.ok [0x40]]) ∧
      (reading .drainReset 28 [.ok [0x40]]).seq = 0 ∧
      replyTo (.readByte 0x6A) (reading .drainReset 28 [.ok [0x40]]) = .ok [0x40]) ∧
    ∃ s, InReader .drainReset s ∧ s.tmp = 0x40 ∧ s.seq = 1 ∧ 0x44#8 = s.tmp ||| (1#8 <<< s.cfg.fifoResetBit.toNat) ∧
      replyTo (.writeByte s.cfg.fifoResetReg 0x44) s = .ok [] := by
  unfold InReader
  exact ⟨by decide, { reading .drainReset 28 [.ok []] with tmp := 0x40, seq := 1 }, by decide⟩

/-- Counts 0, 28 and 12 (V-F4), before and after the deadline. -/
theorem witness_ResetWaitPollsForACount :
    (∀ d ∈ [[0#8, 0], [0, 28], [0, 12]],
      InReader .drainResetWait (reading .drainResetWait 28 [.ok d]) ∧
      replyTo (.read (reading .drainResetWait 28 [.ok d]).cfg.fifoCountAddr 2)
        (reading .drainResetWait 28 [.ok d]) = .ok d) ∧
    1 ≤ (28#32).toNat ∧ count 0 0 = 0 ∧ count 0 28 = (28#32).toNat ∧
    (count 0 12 ≠ 0 ∧ count 0 12 ≠ (28#32).toNat) ∧
    ¬Expired { reading .drainResetWait 28 [] with now := 11000 } ∧
    Expired { reading .drainResetWait 28 [] with now := 11001 } := by
  unfold InReader Expired; decide

/-- A chunk of the backlog (V-F5), and the re-read counts 40, 28 and 20. -/
theorem witness_DiscardDropsTheBacklog :
    (∃ s, InReader .drainDiscard s ∧ 0 < s.remain.toNat ∧ 32 = min s.remain.toNat s.cfg.maxBlock ∧
      ∃ d, replyTo (.read s.cfg.fifoDataAddr 32) s = .ok d) ∧
    (∀ d ∈ [[0#8, 40], [0, 28], [0, 20]],
      InReader .drainDiscard (reading .drainDiscard 28 [.ok d]) ∧
      (reading .drainDiscard 28 [.ok d]).remain.toNat = 0 ∧
      replyTo (.read (reading .drainDiscard 28 [.ok d]).cfg.fifoCountAddr 2)
        (reading .drainDiscard 28 [.ok d]) = .ok d) ∧
    count 0 40 > (28#32).toNat ∧ count 0 28 = (28#32).toNat ∧ count 0 20 < (28#32).toNat ∧
    ¬Expired { reading .drainDiscard 28 [] with now := 11000 } ∧
    Expired { reading .drainDiscard 28 [] with now := 11001 } := by
  unfold InReader Expired
  refine ⟨⟨{ reading .drainDiscard 28 [.ok (List.replicate 32 0)] with remain := 56 }, by decide, by decide,
    by decide, List.replicate 32 0, by decide⟩, by decide⟩

/-- The two chunks of V-F9: 32 bytes with 40 to go, and the last 8. -/
theorem witness_PacketReadStoresTheNextChunk :
    (∃ s d, InReader .readPacket s ∧ s.idx.toNat + s.remain.toNat ≤ s.cfg.bufSize ∧
      32 = min s.remain.toNat s.cfg.maxBlock ∧ replyTo (.read s.cfg.fifoDataAddr 32) s = .ok d ∧
      32 < s.remain.toNat) ∧
    (∃ s d, InReader .readPacket s ∧ s.idx.toNat + s.remain.toNat ≤ s.cfg.bufSize ∧
      8 = min s.remain.toNat s.cfg.maxBlock ∧ replyTo (.read s.cfg.fifoDataAddr 8) s = .ok d ∧
      s.remain.toNat = 8) := by
  unfold InReader
  exact ⟨⟨{ reading .readPacket 40 [.ok (List.replicate 32 0)] with remain := 40 }, List.replicate 32 0,
      by decide⟩,
    ⟨{ reading .readPacket 40 [.ok (List.replicate 8 0)] with idx := 32, remain := 8 }, List.replicate 8 0,
      by decide⟩⟩

/-- The last chunk of the packet, and the count that comes after the deadline: the reader ends. -/
def lastChunk : State := { reading .readPacket 4 [.ok [9, 8, 7, 6]] with remain := 4 }

theorem lastChunk_inv : Inv lastChunk := by
  refine ⟨reference_legal, ⟨rfl, rfl⟩, ?_, 4, ⟨by decide, by decide⟩, by decide, by decide⟩
  simp [StatusOk, lastChunk, reading, Fsm.isBusy, Status.reset]

theorem witness_ReaderEndsInOneOfThreeWays :
    Inv lastChunk ∧ lastChunk.status.busy = true ∧ decode lastChunk.cmd = .ok (.fifoGetPacket 4) ∧
    NotCut lastChunk ∧
    (nextOf (exec (.fifoGetPacket 4) lastChunk)).map (fun t => t.status.busy) = some false := by
  refine ⟨lastChunk_inv, rfl, by decide, ?_, by decide +kernel⟩
  intro b; cases b <;> decide

/-- V-F3's last count. -/
def lateCount : State := { reading .polling 28 [.ok [0, 0]] with now := 11001 }

theorem witness_TimeoutIsNoError :
    Inv lateCount ∧ lateCount.status.busy = true ∧ decode lateCount.cmd = .ok (.fifoGetPacket 28) ∧
    (nextOf (exec (.fifoGetPacket 28) lateCount)).map (fun t => t.fsm) = some .timedOut := by
  have h := reading_inv (f := .polling) (p := 28) (replies := [.ok [0, 0]]) (by decide) (by decide) (by decide)
  exact ⟨⟨h.1, h.2.1, h.2.2.1, h.2.2.2⟩, rfl, by decide, by decide +kernel⟩

/-- A place where the deadline is tested, and one where it is not. -/
theorem witness_DeadlineIsTestedAtFourPlaces :
    (lateCount.status.busy = true ∧ lateCount.fsm ≠ .access ∧ lateCount.fsm.isBusy = true ∧
      1 ≤ (28#32).toNat ∧ replyTo (.read lateCount.cfg.fifoCountAddr 2) lateCount = .ok [0, 0] ∧
      lateCount.fsm = .polling ∧ count 0 0 < (28#32).toNat) ∧
    (lastChunk.status.busy = true ∧ lastChunk.fsm ≠ .access ∧ lastChunk.fsm.isBusy = true ∧
      replyTo (.read lastChunk.cfg.fifoCountAddr 2) lastChunk = .ok [9, 8]) := by decide

theorem witness_PacketIsDeliveredWhole :
    Inv (turning lastChunk) ∧ (turning lastChunk).pfault = false ∧ InReader .readPacket (turning lastChunk) ∧
    decode (turning lastChunk).cmd = .ok (.fifoGetPacket 4) ∧ (turning lastChunk).idx = 0 ∧
    (turning lastChunk).remain.toNat = (4#32).toNat ∧ [9#8, 8, 7, 6].length = (4#32).toNat ∧
    1 = ((4#32).toNat + (turning lastChunk).cfg.maxBlock - 1) / (turning lastChunk).cfg.maxBlock ∧
    (turning lastChunk).agenda = List.replicate 1 .engine ++ [] ∧
    (turning lastChunk).replies = (List.range 1).map
      (fun j => .ok (([9#8, 8, 7, 6].drop (j * (turning lastChunk).cfg.maxBlock)).take
        (turning lastChunk).cfg.maxBlock)) ++ [] := by
  have h := lastChunk_inv
  refine ⟨⟨h.1, h.2.1, h.2.2.1, h.2.2.2⟩, ?_⟩
  unfold InReader; decide

/-- One engine step in DRAIN_DISCARD after one tick. -/
def discarding : State := { reading .drainDiscard 28 [] with agenda := [.tick 5, .engine] }

theorem witness_BacklogCanBeDiscardedForever :
    Inv discarding ∧ discarding.pfault = false ∧ InReader .drainDiscard discarding ∧
    decode discarding.cmd = .ok (.fifoGetPacket 28) ∧ (28#32).toNat < 65535 ∧
    discarding.agenda = (([5] : List Ticks).take 1).flatMap (fun d => [.tick d, .engine]) ∧
    1 ≤ ([5] : List Ticks).length := by
  have h := reading_inv (f := .drainDiscard) (p := 28) (replies := []) (by decide) (by decide) (by decide)
  refine ⟨⟨h.1, h.2.1, h.2.2.1, h.2.2.2⟩, rfl, ⟨rfl, rfl⟩, by decide⟩

/-- READ_BYTE is running, its transaction ends as `replies` says, and `agenda` comes next. -/
def transferring (replies : List Reply) (agenda : List Event) : State :=
  { during (.readByte 0x75) 0 replies with buf := [], agenda := agenda }

theorem transferring_inv (replies : List Reply) (agenda : List Event) : Inv (transferring replies agenda) :=
  issued_inv rfl (by decide) (by decide) (by decide) ⟨rfl, rfl⟩ rfl

theorem transferring_decodes (replies : List Reply) (agenda : List Event) :
    decode (transferring replies agenda).cmd = .ok (.readByte 0x75) := by
  have h : decode (encode (.readByte 0x75)) = .ok (.readByte 0x75) := by decide
  exact h

/-- An error and a success, the ENGINE's turn on the agenda and with an empty one; and an oracle that draws
for itself ends the transaction one way or the other. -/
theorem witness_TransportErrorEndsTheCommand :
    (∀ r a, (transferring r a).pfault = false ∧ (transferring r a).status.busy = true ∧
      Inv (transferring r a) ∧ decode (transferring r a).cmd = .ok (.readByte 0x75)) ∧
    (∀ r, ∃ s0, EngineTurn (transferring r [.engine]) s0 ∧ nextRequest (.readByte 0x75) s0 = .readByte 0x75 ∧
      s0.replies = r) ∧
    (∀ r, ∃ s0, EngineTurn (transferring r []) s0 ∧ nextRequest (.readByte 0x75) s0 = .readByte 0x75 ∧
      s0.replies = r) ∧
    (∀ s0 : State, s0.replies = [.error] → replyTo (.readByte 0x75) s0 = .error) ∧
    (∀ s0 : State, s0.replies = [.ok [1]] → replyTo (.readByte 0x75) s0 = .ok [1]) ∧
    (∀ s0 : State, s0.replies = [] →
      replyTo (.readByte 0x75) s0 = .error ∨ ∃ d, replyTo (.readByte 0x75) s0 = .ok d) := by
  refine ⟨fun r a => ⟨rfl, rfl, transferring_inv r a, transferring_decodes r a⟩,
    fun r => ⟨_, .inl ⟨[], rfl, rfl⟩, rfl, rfl⟩, fun r => ⟨_, .inr ⟨rfl, rfl⟩, rfl, rfl⟩, ?_, ?_, ?_⟩
  · intro s0 h; simp [replyTo, h]
  · intro s0 h; simp [replyTo, h, fillBytes, Request.readLen]
  · intro s0 h; simp only [replyTo, h]; split <;> simp

/-- Each breach: while BUSY, a register number 5, an index 256. -/
theorem witness_ProtocolBreachesSetPfault :
    (issuing 0 (during (.readByte 0x75) 0 [])).pfault = false ∧
    (issuing 0 (during (.readByte 0x75) 0 [])).status.busy = true ∧
    ({ during (.readByte 0x75) 0 [] with agenda := [.writeBuf 0 1] } : State).status.busy = true ∧
    (({ State.reset with agenda := [.readReg 5] } : State).pfault = false ∧ 5 > 4) ∧
    (({ State.reset with agenda := [.readBuf 256] } : State).pfault = false ∧
      State.reset.cfg.bufSize ≤ 256) ∧
    ({ State.reset with pfault := true } : State).pfault = true := by
  decide

theorem witness_HostWriteBufStoresOneByte :
    ({ State.reset with agenda := [.writeBuf 255 1] } : State).agenda = .writeBuf 255 1 :: [] ∧
    State.reset.pfault = false ∧ State.reset.status.busy = false ∧ 255 < State.reset.cfg.bufSize ∧
    ¬(State.reset.status.busy = false ∧ 256 < State.reset.cfg.bufSize) := by decide

theorem witness_HostReadsAnswerAndChangeNothing :
    ({ State.reset with agenda := [.readReg 4] } : State).agenda = .readReg 4 :: [] ∧
    State.reset.pfault = false ∧ 255 < State.reset.cfg.bufSize ∧ State.reset.buf.read 255 = none ∧
    ({ State.reset with buf := [(255, 7)] } : State).buf.read 255 = some 7 := by decide

theorem witness_HostWriteOfARegisterChangesNothing :
    ∀ n ∈ [0, 4], ({ State.reset with agenda := [.writeReg n 1] } : State).pfault = false ∧
      ({ State.reset with agenda := [.writeReg n 1] } : State).agenda = .writeReg n 1 :: [] ∧ n ≤ 4 := by
  decide

theorem witness_ResetInputClearsTheEngine :
    ({ during (.readByte 0x75) 0 [] with agenda := [.reset] } : State).pfault = false ∧
    ({ during (.readByte 0x75) 0 [] with agenda := [.reset] } : State).agenda = .reset :: [] := by decide

/-- Performed or not, with the ENGINE's turn on the agenda and with an empty one. -/
theorem witness_ResetInFlightAbandonsTheCommand :
    ∀ b, ∀ a ∈ [[Event.engine], []], Inv (transferring [.cutByReset b] a) ∧
      (transferring [.cutByReset b] a).pfault = false ∧ (transferring [.cutByReset b] a).status.busy = true ∧
      decode (transferring [.cutByReset b] a).cmd = .ok (.readByte 0x75) ∧
      ∃ s0, EngineTurn (transferring [.cutByReset b] a) s0 ∧
        replyTo (nextRequest (.readByte 0x75) s0) s0 = .cutByReset b := by
  intro b a ha
  refine ⟨transferring_inv _ _, rfl, rfl, transferring_decodes _ _, ?_⟩
  simp only [List.mem_cons, List.not_mem_nil, or_false] at ha
  obtain rfl | rfl := ha
  · exact ⟨_, .inl ⟨[], rfl, rfl⟩, rfl⟩
  · exact ⟨_, .inr ⟨rfl, rfl⟩, rfl⟩

/-- The reset state satisfies the invariant, takes no step, and so does a state in PACKET_READY. -/
def delivered : State :=
  { State.reset with
    fsm := .packetReady, cmd := encode (.fifoGetPacket 4),
    status := { Status.reset with done := true, pkt := true, rlen := 4 } }

theorem witness_TerminalStatesStayUntilTheNextIssue :
    Inv delivered ∧ delivered.pfault = false ∧ delivered.status.busy = false ∧ delivered.agenda = [] ∧
    delivered.fsm = .packetReady ∧ (turning delivered).agenda = .engine :: [] ∧
    (nextOf (step delivered)).isSome = true := by
  refine ⟨⟨reference_legal, ⟨rfl, rfl⟩, ?_, 4, ⟨by decide, by decide⟩, by decide⟩, by decide +kernel⟩
  simp [StatusOk, delivered, Fsm.isBusy, Status.reset]

/-- A step of each kind the statement speaks of: an issue, an ENGINE step, a reset, a reset in flight. -/
theorem witness_CommandWordChangesOnlyAtIssueOrReset :
    ∀ s ∈ [issuing 0x5750000000000000 State.reset, turning (during (.readByte 0x75) 0 [.ok [1]]),
        { State.reset with agenda := [.reset] }, turning (during (.readByte 0x75) 0 [.cutByReset true])],
      (nextOf (step s)).isSome = true := by decide +kernel

/-- Busy with an ENGINE turn next, busy with an empty agenda, not busy, and busy with a host read next. -/
theorem witness_StepIssuesAtMostOneTransaction :
    ∀ s ∈ [turning (during (.readByte 0x75) 0 [.ok [1]]), during (.readByte 0x75) 0 [.ok [1]], State.reset,
        { during (.readByte 0x75) 0 [] with agenda := [.readReg 0] }],
      (nextOf (step s)).isSome = true := by decide +kernel

theorem witness_BlocksFitTheTransport :
    Inv (turning lastChunk) ∧ 2 ≤ (turning lastChunk).cfg.maxBlock ∧
    lastExchange (step (turning lastChunk)) = some ⟨.read 0x74 4, .ok [9, 8, 7, 6]⟩ := by
  have h := lastChunk_inv
  exact ⟨⟨h.1, h.2.1, h.2.2.1, h.2.2.2⟩, by decide, by decide +kernel⟩

theorem witness_StepKeepsTheBufferCanonical : BufOk lastChunk ∧ (nextOf (step lastChunk)).isSome = true :=
  ⟨lastChunk_inv.2.1, by decide +kernel⟩

theorem witness_StepKeepsOneOutcome : StatusOk lastChunk ∧ (nextOf (step lastChunk)).isSome = true :=
  ⟨lastChunk_inv.2.2.1, by decide +kernel⟩

theorem witness_StepKeepsTheInvariant : Inv lastChunk ∧ (nextOf (step lastChunk)).isSome = true :=
  ⟨lastChunk_inv, by decide +kernel⟩

/-- Each cause in a state of the invariant: PFAULT, HOST_READ_BUF of a byte never written, and an issue
over one. -/
theorem witness_OnlyHostMistakesStopTheMachine :
    Inv { lastChunk with pfault := true } ∧
    (Inv { lastChunk with agenda := [.readBuf 255] } ∧ 255 < lastChunk.cfg.bufSize ∧
      lastChunk.buf.read 255 = none) ∧
    (Inv { delivered with agenda := [.issue 0xC6A0000000000002] } ∧ delivered.status.busy = false ∧
      decode 0xC6A0000000000002 = .ok (.writeBytes 0x6A 2) ∧
      (Instr.writeBytes 0x6A 2).wellFormed delivered.cfg = true ∧
      ¬SourceWritten (.writeBytes 0x6A 2) delivered) := by
  have h := lastChunk_inv
  have d := witness_TerminalStatesStayUntilTheNextIssue.1
  refine ⟨⟨h.1, h.2.1, h.2.2.1, h.2.2.2⟩, ⟨⟨h.1, h.2.1, h.2.2.1, h.2.2.2⟩, by decide⟩,
    ⟨d.1, d.2.1, d.2.2.1, d.2.2.2⟩, ?_⟩
  unfold SourceWritten; decide

end Sys2Proof.Tests
end

section
/-! SUPPORT. The host port and the issue of a command: what each operation answers under its conditions
(R22, R26, R29 to R31), and the statements' vocabulary as the model's own operations. -/

namespace Sys2Proof.Machine

open Sys2Proof.Expect

variable {s t : State}

/-! ### The statements' vocabulary -/

/-- What a started command becomes is the model's own start of it (R26, R27, R89). -/
theorem begun_eq (i : Instr) (s : State) :
    begun i s = (if isAccessor i then startAccess else startReader) s := by
  cases i <;> rfl

/-- The bytes a command takes from BUF are those of its rule (R58, R70). -/
theorem sourceWritten_iff_SourceWritten {i : Instr} :
    sourceWritten i s.buf = true ↔ SourceWritten i s := by
  rw [sourceWritten_iff]
  cases i with
  | writeWords | writeBytes | writeBytesS => exact Iff.rfl
  | _ => simp [sourceBytes, SourceWritten]

/-! ### Issue -/

/-- The error a list of checks raises is the error of one of them. -/
theorem firstFailure_mem {checks : List (Bool × ErrCode)} {codes : List ErrCode} {e : ErrCode}
    (hc : ∀ c ∈ checks, c.2 ∈ codes) (h : firstFailure checks = some e) : e ∈ codes := by
  induction checks with
  | nil => cases h
  | cons c rest ih =>
    obtain ⟨hhead, hrest⟩ := List.forall_mem_cons.1 hc
    obtain ⟨fails, code⟩ := c
    cases fails
    · exact ih hrest h
    · cases h; exact hhead

/-- The checks of issue raise no other error than those of R61 to R64. -/
theorem issueCheck_mem {p : Params} {i : Instr} {e : ErrCode} (h : issueCheck p i = some e) :
    e ∈ [ErrCode.field, .length, .addr, .range] := by
  cases i with
  | readBit | writeBit | readByte | writeByte => cases h
  | _ => exact firstFailure_mem (by simp) h

/-- A well-formed command whose bytes of BUF are written starts (R26, R27, R89). -/
theorem exec_issue_begins {i : Instr} (hb : s.status.busy = false) (hw : i.wellFormed s.cfg = true)
    (hs : SourceWritten i s) : exec i s = .next (begun i s) := by
  have hc : issueCheck s.cfg i = none := (issueCheck_eq_none _ _).2 hw
  have hm : sourceWritten i s.buf = true := sourceWritten_iff_SourceWritten.2 hs
  rw [exec_issue i hb, begun_eq]
  simp [issueChecked, hc, hm]

/-- An ill-formed command raises the error of a failing check, with info 0 (R26, R106). -/
theorem exec_issue_raises {i : Instr} (hb : s.status.busy = false) (hw : i.wellFormed s.cfg = false) :
    ∃ e, issueCheck s.cfg i = some e ∧ exec i s = .next (raise e 0 s) := by
  have hc : issueCheck s.cfg i ≠ none := fun h => by
    simp [(issueCheck_eq_none _ _).1 h] at hw
  obtain ⟨e, he⟩ := Option.ne_none_iff_exists'.1 hc
  exact ⟨e, he, by rw [exec_issue i hb]; simp [issueChecked, he]⟩

theorem hostIssue_busy {run : Instr → State → Out} {w : Cmd} (hb : s.status.busy = true) :
    hostIssue run w s = .next (protocolFault s) := by
  simp [hostIssue, hb]

theorem hostIssue_illegal {run : Instr → State → Out} {w : Cmd} {r : Reject}
    (hb : s.status.busy = false) (hd : decode w = .error r) :
    hostIssue run w s = .next (raise .illegal 0 (latch w s)) := by
  simp [hostIssue, hb, hd]

theorem hostIssue_legal {run : Instr → State → Out} {w : Cmd} {i : Instr}
    (hb : s.status.busy = false) (hd : decode w = .ok i) : hostIssue run w s = run i (latch w s) := by
  simp [hostIssue, hb, hd]

/-- A legal word placed on the agenda runs its command on the state issue has latched it in (R26). -/
theorem step_issue_legal {w : Cmd} {rest : List Event} {i : Instr} (hp : s.pfault = false)
    (ha : s.agenda = .issue w :: rest) (hb : s.status.busy = false) (hd : decode w = .ok i) :
    step s = exec i (latch w { s with agenda := rest }) := by
  rw [step_cons hp ha]
  exact hostIssue_legal hb hd

/-! ### Host reads and writes -/

/-- The register numbers above 4 are those that name no register (R22). -/
theorem regValue_eq_none {n : Nat} (h : 4 < n) (s : State) : regValue n s = none := by
  obtain ⟨k, rfl⟩ : ∃ k, n = k + 5 := ⟨n - 5, by omega⟩
  rfl

theorem hostReadReg_some {n : Nat} {v : Data} (h : regValue n s = some v) :
    hostReadReg n s = .next { s with hostOut := .reg n v :: s.hostOut } := by
  simp [hostReadReg, h]

theorem hostReadReg_none {n : Nat} (h : regValue n s = none) :
    hostReadReg n s = .next (protocolFault s) := by
  simp [hostReadReg, h]

theorem hostWriteReg_none {n : Nat} (h : regValue n s = none) :
    hostWriteReg n s = .next (protocolFault s) := by
  simp [hostWriteReg, h]

theorem hostReadBuf_some {i : Nat} {b : Byte} (hi : i < s.cfg.bufSize) (h : s.buf.read i = some b) :
    hostReadBuf i s = .next { s with hostOut := .buf i b :: s.hostOut } := by
  simp [hostReadBuf, hi, h]

theorem hostReadBuf_none {i : Nat} (hi : i < s.cfg.bufSize) (h : s.buf.read i = none) :
    hostReadBuf i s = .fault .unwrittenBuf := by
  simp [hostReadBuf, hi, h]

theorem hostReadBuf_outside {i : Nat} (hi : s.cfg.bufSize ≤ i) :
    hostReadBuf i s = .next (protocolFault s) := by
  simp [hostReadBuf, Nat.not_lt.2 hi]

theorem hostWriteBuf_breach {i : Nat} {b : Byte} (h : s.status.busy = true ∨ s.cfg.bufSize ≤ i) :
    hostWriteBuf i b s = .next (protocolFault s) := by
  have hn : ¬(s.status.busy = false ∧ i < s.cfg.bufSize) := by
    rintro ⟨hb, hi⟩
    obtain h | h := h
    · simp [hb] at h
    · omega
  rw [hostWriteBuf, if_neg hn]

/-- A read of a register answers it or marks the breach (R29, R31). -/
theorem hostReadReg_fsm {n : Nat} (h : hostReadReg n s = .next t) : t.fsm = s.fsm := by
  unfold hostReadReg at h
  split at h <;> cases h <;> rfl

theorem hostWriteReg_fsm {n : Nat} (h : hostWriteReg n s = .next t) : t.fsm = s.fsm := by
  unfold hostWriteReg at h
  split at h <;> cases h <;> rfl

theorem hostReadBuf_fsm {i : Nat} (h : hostReadBuf i s = .next t) : t.fsm = s.fsm := by
  unfold hostReadBuf at h
  split at h
  · split at h <;> cases h; rfl
  · cases h; rfl

theorem hostWriteBuf_fsm {i : Nat} {b : Byte} (h : hostWriteBuf i b s = .next t) : t.fsm = s.fsm := by
  unfold hostWriteBuf at h
  split at h <;> cases h <;> rfl

/-! ### An engine that is not busy -/

theorem engineTurn_idle {run : Instr → State → Out} (hb : s.status.busy = false) :
    engineTurn run s = .next s := by
  simp [engineTurn, hb]

/-- While the engine is not busy, only an issue or a reset can move `fsm` (R21). -/
theorem act_keeps_fsm {e : Event} (hb : s.status.busy = false) (hi : ∀ w, e ≠ .issue w)
    (hr : e ≠ .reset) (h : act exec e s = .next t) : t.fsm = s.fsm := by
  cases e with
  | issue w => exact absurd rfl (hi w)
  | reset => exact absurd rfl hr
  | writeBuf i b => exact hostWriteBuf_fsm h
  | readReg n => exact hostReadReg_fsm h
  | readBuf i => exact hostReadBuf_fsm h
  | writeReg n v => exact hostWriteReg_fsm h
  | tick d => cases h; rfl
  | engine => rw [act, engineTurn_idle hb] at h; cases h; rfl

theorem step_nil_idle (hp : s.pfault = false) (hb : s.status.busy = false) (ha : s.agenda = []) :
    step s = .next s := by
  rw [step_nil hp ha, hb]; rfl

/-- The busy states are the seven of R21. -/
theorem Fsm.isBusy_iff (f : Fsm) : f.isBusy = true ↔ f ∈ [Fsm.polling, .drainReset, .drainResetWait,
    .drainDiscard, .waiting, .readPacket, .access] := by
  cases f <;> decide

end Sys2Proof.Machine
end

section
/-! PROOFS. The statements of 10_state.md: the engine's states, issue and the host port. -/

namespace Sys2Proof.Machine

open Sys2Proof.Expect

/-- Settles O52: BUSY is a function of `fsm` in the invariant, and an engine that is not busy leaves `fsm`
in every event but an issue and a reset. -/
theorem terminalStatesStayUntilTheNextIssue : Obligations.TerminalStatesStayUntilTheNextIssue := by
  rintro s ⟨-, -, ⟨hbusy, -⟩, -⟩
  refine ⟨by rw [hbusy]; exact s.fsm.isBusy_iff, step_nil_idle, ?_, ?_⟩
  · intro hp hb rest ha
    rw [step_cons hp ha]
    exact engineTurn_idle hb
  · intro t hf h
    have hb : s.status.busy = false := by
      obtain hf | hf := hf <;> rw [hbusy, hf] <;> rfl
    have hp : s.pfault = false := by
      by_contra hp
      rw [step_pfault (by simpa using hp)] at h; cases h
    cases ha : s.agenda with
    | nil => rw [step_nil_idle hp hb ha] at h; cases h; exact .inl rfl
    | cons e rest =>
      rw [step_cons hp ha] at h
      by_cases hi : ∃ w, e = .issue w
      · obtain ⟨w, rfl⟩ := hi
        exact .inr (.inl ⟨w, rest, rfl⟩)
      · by_cases hr : e = .reset
        · exact .inr (.inr ⟨rest, by rw [hr]⟩)
        · exact .inl (act_keeps_fsm (s := { s with agenda := rest }) hb (not_exists.1 hi) hr h)

/-- Settles O7: one clause for each of the ways an issue goes. -/
theorem hostIssueLatchesChecksAndStarts : Obligations.HostIssueLatchesChecksAndStarts := by
  intro s w rest hp ha
  refine ⟨fun hb => ?_, fun hb r hd => ?_, fun hb i hd hw hs => ?_, fun hb i hd hw => ?_⟩
  · rw [step_cons hp ha]
    exact hostIssue_busy hb
  · rw [step_cons hp ha]
    exact hostIssue_illegal hb hd
  · rw [step_issue_legal hp ha hb hd]
    exact exec_issue_begins hb hw hs
  · rw [step_issue_legal hp ha hb hd]
    obtain ⟨e, he, hx⟩ := exec_issue_raises (s := latch w { s with agenda := rest }) hb hw
    have hmem := issueCheck_mem he
    refine ⟨e, ?_, ?_, hx⟩ <;> rintro rfl <;> simp at hmem

/-- Settles O13: the start of an accessor command is R27's. -/
theorem accessorIssueEntersAccess : Obligations.AccessorIssueEntersAccess := by
  intro i s hi hw hs hb
  rw [exec_issue_begins hb hw hs, begun_eq, if_pos hi]
  rfl

/-- Settles O45: each breach by the port operation that meets it. -/
theorem protocolBreachesSetPfault : Obligations.ProtocolBreachesSetPfault := by
  refine ⟨fun s rest e hp ha hbreach => ?_, fun s => step_pfault⟩
  rw [step_cons hp ha]
  obtain ⟨⟨w, rfl⟩, hb⟩ | ⟨⟨i, b, rfl⟩, hb⟩ | ⟨n, v, rfl | rfl, hn⟩ | ⟨i, b, rfl | rfl, hi⟩ := hbreach
  · exact hostIssue_busy hb
  · exact hostWriteBuf_breach (.inl hb)
  · exact hostReadReg_none (regValue_eq_none hn _)
  · exact hostWriteReg_none (regValue_eq_none hn _)
  · exact hostReadBuf_outside hi
  · exact hostWriteBuf_breach (.inr hi)

/-- Settles O47: the registers by number (R22) and the bytes of BUF. -/
theorem hostReadsAnswerAndChangeNothing : Obligations.HostReadsAnswerAndChangeNothing := by
  intro s rest hp
  refine ⟨fun n v ha hv => ?_, fun i ha hi => ?_⟩
  · have hreg : regValue n { s with agenda := rest } = some v := by
      obtain ⟨rfl, rfl⟩ | ⟨rfl, rfl⟩ | ⟨rfl, rfl⟩ | ⟨rfl, rfl⟩ | ⟨rfl, rfl⟩ := hv <;> rfl
    rw [step_cons hp ha]
    exact hostReadReg_some hreg
  · rw [step_cons hp ha]
    exact ⟨fun b hb => hostReadBuf_some hi hb, fun hb => hostReadBuf_none hi hb⟩

end Sys2Proof.Machine
end

section
/-! SUPPORT. The opcode table by the fields of the command word (R56, R58, R60), and the legal words as
those a row matches and as those the decoder accepts. -/

namespace Sys2Proof

open Sys2Proof.Expect

section
variable (w : Cmd) (op : BitVec 4) (reg : RegAddr) (len : BitVec 4) (start : BitVec 3) (data : Data)

/-- A mask that compares all of OP and RSVD, as every row's does, and the given bits of the other fields. -/
def fieldMask : Cmd := 15#4 ++ reg ++ len ++ start ++ 0x1FFF#13 ++ data

theorem fieldRsvd_and_fieldMask : fieldRsvd (w &&& fieldMask reg len start data) = fieldRsvd w := by
  have hmask : fieldRsvd (fieldMask reg len start data) = BitVec.allOnes 13 := by
    unfold fieldRsvd fieldMask
    erw [BitVec.extractLsb'_append_eq_of_le (by decide), BitVec.extractLsb'_append_eq_right]
    rfl
  rw [fieldRsvd, BitVec.extractLsb'_and]
  exact (congrArg _ hmask).trans BitVec.and_allOnes

theorem assemble_eq_iff (op' : BitVec 4) (reg' : RegAddr) (len' : BitVec 4) (start' : BitVec 3)
    (data' : Data) : assemble op reg len start data = assemble op' reg' len' start' data' ↔
      op = op' ∧ reg = reg' ∧ len = len' ∧ start = start' ∧ data = data' := by
  refine ⟨fun h => ⟨?_, ?_, ?_, ?_, ?_⟩, ?_⟩
  · simpa using congrArg fieldOp h
  · simpa using congrArg fieldReg h
  · simpa using congrArg fieldLen h
  · simpa using congrArg fieldStart h
  · simpa using congrArg fieldData h
  · rintro ⟨rfl, rfl, rfl, rfl, rfl⟩; rfl

/-- What a row asks of a word: its OP, RSVD = 0, and 0 in the bits its mask compares. -/
theorem and_fieldMask_eq_iff : w &&& fieldMask reg len start data = assemble op 0 0 0 0 ↔
    fieldOp w = op ∧ fieldRsvd w = 0 ∧ fieldReg w &&& reg = 0 ∧ fieldLen w &&& len = 0 ∧
      fieldStart w &&& start = 0 ∧ fieldData w &&& data = 0 := by
  by_cases hr : fieldRsvd w = 0
  · have hop : fieldOp w &&& 15#4 = fieldOp w := BitVec.and_allOnes
    conv_lhs => rw [← assemble_fields w hr, fieldMask, Laws.assemble_and, assemble_eq_iff, hop]
    simp [hr]
  · have hne : w &&& fieldMask reg len start data ≠ assemble op 0 0 0 0 := fun h => hr <| by
      rw [← fieldRsvd_and_fieldMask w reg len start data, h, fieldRsvd_assemble]
    exact iff_of_false hne fun h => hr h.2.1

end

/-- The opcode table's patterns and masks, field by field (R58). -/
theorem opcodeTable_eq : opcodeTable =
    [⟨"READ_BIT", assemble 1 0 0 0 0, fieldMask 0 15 0 0xFFFFFFFF⟩,
     ⟨"WRITE_BIT", assemble 2 0 0 0 0, fieldMask 0 15 0 0xFFFFFFFE⟩,
     ⟨"READ_BITS", assemble 3 0 0 0 0, fieldMask 0 0 0 0xFFFFFFFF⟩,
     ⟨"WRITE_BITS", assemble 4 0 0 0 0, fieldMask 0 0 0 0⟩,
     ⟨"READ_BYTE", assemble 5 0 0 0 0, fieldMask 0 15 7 0xFFFFFFFF⟩,
     ⟨"WRITE_BYTE", assemble 6 0 0 0 0, fieldMask 0 15 7 0xFFFFFF00⟩,
     ⟨"READ_WORD", assemble 7 0 0 0 0, fieldMask 0 15 7 0xFFFFFFFF⟩,
     ⟨"WRITE_WORD", assemble 8 0 0 0 0, fieldMask 0 15 7 0⟩,
     ⟨"READ_WORDS", assemble 9 0 0 0 0, fieldMask 0 15 7 0⟩,
     ⟨"WRITE_WORDS", assemble 10 0 0 0 0, fieldMask 0 15 7 0⟩,
     ⟨"READ_BYTES", assemble 11 0 0 0 0, fieldMask 0 15 7 0⟩,
     ⟨"WRITE_BYTES", assemble 12 0 0 0 0, fieldMask 0 15 7 0⟩,
     ⟨"READ_BYTES_S", assemble 13 0 0 0 0, fieldMask 0 15 7 0⟩,
     ⟨"WRITE_BYTES_S", assemble 14 0 0 0 0, fieldMask 0 15 7 0⟩,
     ⟨"FIFO_GET_PACKET", assemble 15 0 0 0 0, fieldMask 0xFF 15 7 0⟩] := by
  decide

/-- The bits from `k` up are zero exactly when the mask of those bits meets none. -/
theorem and_highBits_eq_zero_iff {n : Nat} (k : Nat) (x : BitVec n) :
    x &&& (BitVec.allOnes n <<< k) = 0 ↔ x.extractLsb' k (n - k) = 0 := by
  refine ⟨fun h => ?_, fun h => ?_⟩ <;> ext i hi
  · have hbit := congrArg (fun y => BitVec.getLsbD y (k + i)) h
    simpa [show k + i < n by omega] using hbit
  · have hbit := congrArg (fun y => BitVec.getLsbD y (i - k)) h
    by_cases hk : i < k
    · simp [hk]
    · simpa [hk, hi, show i - k < n - k by omega, show k + (i - k) = i by omega] using hbit

/-- R60's two readings agree: a row matches a word exactly when none of (a) to (e) holds of it. Only the
row of the word's own OP can match. -/
theorem exists_row_iff_not_illegal (w : Cmd) :
    (∃ r ∈ opcodeTable, w &&& r.mask = r.pattern) ↔ ¬Illegal w := by
  have hreg : fieldReg w &&& 0xFF = fieldReg w := BitVec.and_allOnes
  have hlen : fieldLen w &&& 15 = fieldLen w := BitVec.and_allOnes
  have hstart : fieldStart w &&& 7 = fieldStart w := BitVec.and_allOnes
  have hdata : fieldData w &&& 0xFFFFFFFF = fieldData w := BitVec.and_allOnes
  have hbit : fieldData w &&& 0xFFFFFFFE = 0 ↔ (fieldData w).extractLsb' 1 31 = 0 :=
    and_highBits_eq_zero_iff 1 _
  have hbyte : fieldData w &&& 0xFFFFFF00 = 0 ↔ (fieldData w).extractLsb' 8 24 = 0 :=
    and_highBits_eq_zero_iff 8 _
  simp only [opcodeTable_eq, List.exists_mem_cons_iff, and_fieldMask_eq_iff, hreg, hlen, hstart, hdata,
    hbit, hbyte, Illegal]
  obtain ⟨k, hk, hop⟩ : ∃ k < 16, fieldOp w = BitVec.ofNat 4 k := ⟨_, (fieldOp w).isLt, by simp⟩
  interval_cases k <;> simp [hop, and_comm, and_left_comm]

theorem exists_demand_eq_ok {ok : Bool} {r : Reject} {k : Except Reject Instr} :
    (∃ i, demand ok r k = .ok i) ↔ ok = true ∧ ∃ i, k = .ok i := by
  cases ok <;> simp [demand]

/-- The decoder accepts exactly the words of which none of R60's (a) to (e) holds: what it demands for
each OP is what R58 marks. -/
theorem exists_decode_eq_ok_iff (w : Cmd) : (∃ i, decode w = .ok i) ↔ ¬Illegal w := by
  obtain ⟨k, hk, hop⟩ : ∃ k < 16, fieldOp w = BitVec.ofNat 4 k := ⟨_, (fieldOp w).isLt, by simp⟩
  simp only [decode, exists_demand_eq_ok, Illegal]
  interval_cases k <;>
    simp [hop, exists_demand_eq_ok, demandNoField, and_comm, and_left_comm]

end Sys2Proof

namespace Sys2Proof.Machine

open Sys2Proof.Expect

/-- An illegal word placed on the agenda raises E_ILLEGAL with info 0 (R26, R60). -/
theorem step_issue_illegal {s : State} {w : Cmd} {rest : List Event} (hp : s.pfault = false)
    (hb : s.status.busy = false) (ha : s.agenda = .issue w :: rest) (hw : Illegal w) :
    step s = .next (raised .illegal 0 (latched w { s with agenda := rest })) := by
  rw [step_cons hp ha]
  cases hd : decode w with
  | ok i => exact absurd hw ((exists_decode_eq_ok_iff w).1 ⟨i, hd⟩)
  | error r => exact hostIssue_illegal hb hd

end Sys2Proof.Machine
end

section
/-! SUPPORT. The checks of issue in the statements' words, in R106's order, and what an issue does at each. -/

namespace Sys2Proof.Machine

open Sys2Proof.Expect

theorem fieldFails_iff {start : BitVec 3} {len : BitVec 4} :
    fieldFails start len = true ↔ len.toNat > 8 ∨ len.toNat > start.toNat + 1 := by
  simp [fieldFails]

theorem lengthFails_iff {n : Data} {limit : Nat} :
    lengthFails n limit = true ↔ ¬(1 ≤ n.toNat ∧ n.toNat ≤ limit) := by
  rw [not_and_or]; simp [lengthFails]

open Classical in
/-- R106's order: the first of the four conditions that holds gives the error. -/
theorem issueCheck_eq (p : Params) (i : Instr) : issueCheck p i =
    if FieldBad i then some .field else if LengthBad p i then some .length
    else if AddrBad i then some .addr else if RangeBad i then some .range else none := by
  cases i <;>
    simp [issueCheck, firstFailure, FieldBad, LengthBad, AddrBad, RangeBad, fieldFails_iff,
      lengthFails_iff, addrFails, rangeFails]

theorem addrBad_of_issueCheck {p : Params} {i : Instr} (h : issueCheck p i = some .addr) :
    AddrBad i := by
  by_contra ha
  rw [issueCheck_eq, if_neg ha] at h
  split_ifs at h <;> cases h

theorem begun_busy (i : Instr) (s : State) : (begun i s).status.busy = true := by
  cases i <;> rfl

/-- A failing check raises its error with info 0 (R26, R106). -/
theorem exec_issue_error {s : State} {i : Instr} {e : ErrCode} (hb : s.status.busy = false)
    (he : issueCheck s.cfg i = some e) : exec i s = .next (raised e 0 s) := by
  rw [exec_issue i hb]
  simp only [issueChecked, he]
  rfl

section
variable {s : State} {i : Instr} (hb : s.status.busy = false)
include hb

theorem exec_issue_raises_field (h : FieldBad i) : exec i s = .next (raised .field 0 s) :=
  exec_issue_error hb (by rw [issueCheck_eq, if_pos h])

theorem exec_issue_raises_length (hf : ¬FieldBad i) (h : LengthBad s.cfg i) :
    exec i s = .next (raised .length 0 s) :=
  exec_issue_error hb (by rw [issueCheck_eq, if_neg hf, if_pos h])

theorem exec_issue_raises_addr (hf : ¬FieldBad i) (hl : ¬LengthBad s.cfg i) (h : AddrBad i) :
    exec i s = .next (raised .addr 0 s) :=
  exec_issue_error hb (by rw [issueCheck_eq, if_neg hf, if_neg hl, if_pos h])

theorem exec_issue_raises_range (hf : ¬FieldBad i) (hl : ¬LengthBad s.cfg i) (ha : ¬AddrBad i)
    (h : RangeBad i) : exec i s = .next (raised .range 0 s) :=
  exec_issue_error hb (by rw [issueCheck_eq, if_neg hf, if_neg hl, if_neg ha, if_pos h])

theorem exec_issue_passes (hf : ¬FieldBad i) (hl : ¬LengthBad s.cfg i) (ha : ¬AddrBad i)
    (hr : ¬RangeBad i) (hs : SourceWritten i s) : exec i s = .next (begun i s) := by
  have hc : issueCheck s.cfg i = none := by
    rw [issueCheck_eq, if_neg hf, if_neg hl, if_neg ha, if_neg hr]
  exact exec_issue_begins hb ((issueCheck_eq_none _ _).1 hc) hs

/-- E_ADDR is raised for no other reason than R63's. -/
theorem addrBad_of_exec_raises_addr (h : exec i s = .next (raised .addr 0 s)) : AddrBad i := by
  rw [exec_issue i hb] at h
  obtain ⟨e, he, ht⟩ | ⟨-, -, ht⟩ := issueChecked_next h
  · obtain rfl : ErrCode.addr = e := congrArg (fun t : State => t.status.err) ht
    exact addrBad_of_issueCheck he
  · rw [← begun_eq] at ht
    cases (congrArg (fun t : State => t.status.busy) ht).trans (begun_busy i s)

end

end Sys2Proof.Machine
end

section
/-! PROOFS. The statements of 30_encoding.md: the illegal words and the operands issue refuses. -/

namespace Sys2Proof.Machine

open Sys2Proof.Expect

/-- Settles O4: the illegal words are those no row matches and those the decoder rejects. -/
theorem illegalWordsRaiseIllegal : Obligations.IllegalWordsRaiseIllegal := by
  intro w
  refine ⟨?_, exists_decode_eq_ok_iff w, fun s rest hp hb ha => step_issue_illegal hp hb ha⟩
  have hrow := (exists_row_iff_not_illegal w).not
  push Not at hrow
  exact hrow.symm

/-- Settles O1: -1 is below E_RANGE's bound, and register 0x13 passes the check before it. -/
theorem workedEncodingsDecode : Obligations.WorkedEncodingsDecode := by
  refine ⟨by decide, by decide, by decide, by decide, fun s hb => ?_, by decide⟩
  have haddr : ¬(0x13#8).toNat + 2 - 1 > 0xFF := by decide
  have hrange : (0xFFFFFFFF#32).toInt < 0 := by decide
  exact exec_issue_raises_range hb not_false not_false haddr (.inl hrange)

/-- Settles O9: E_FIELD's is the only check of a bit-field command, and a bit command has none. -/
theorem fieldOutsideOneByteRaisesField : Obligations.FieldOutsideOneByteRaisesField := by
  intro reg start len v s hb
  refine ⟨fun hbad => ⟨exec_issue_raises_field hb hbad, exec_issue_raises_field hb hbad⟩,
    fun h8 hstart => ?_, fun pos x => ?_⟩
  · have hok : ¬(len.toNat > 8 ∨ len.toNat > start.toNat + 1) := by omega
    exact ⟨exec_issue_passes hb hok not_false not_false not_false trivial,
      exec_issue_passes hb hok not_false not_false not_false trivial⟩
  · exact ⟨exec_issue_passes hb not_false not_false not_false not_false trivial,
      exec_issue_passes hb not_false not_false not_false not_false trivial⟩

/-- Settles O10: the count is the first check of every command that has one. -/
theorem countOutOfRangeRaisesLength : Obligations.CountOutOfRangeRaisesLength := by
  intro reg n s hb
  refine ⟨fun hbad => ⟨?_, ?_⟩, fun hbad => ⟨?_, ?_⟩, fun hbad => ⟨?_, ?_, ?_⟩⟩ <;>
    exact exec_issue_raises_length hb not_false hbad

/-- Settles O11: with the count in its range the span is the first check that fails, and a command that
addresses one register has no such check. -/
theorem spanPastTheLastRegisterRaisesAddr : Obligations.SpanPastTheLastRegisterRaisesAddr := by
  intro reg n v s hb
  refine ⟨fun hbad => ?_, fun h1 hn hbad => ?_, fun h1 hn hbad => ?_, fun h1 hn hbad => ?_,
    fun pos len x b i hi h => ?_⟩
  · exact ⟨exec_issue_raises_addr hb not_false not_false hbad,
      exec_issue_raises_addr hb not_false not_false hbad⟩
  iterate 3
    · have hcount := not_not_intro (And.intro h1 hn)
      exact ⟨exec_issue_raises_addr hb not_false hcount hbad,
        exec_issue_raises_addr hb not_false hcount hbad⟩
  · have haddr : AddrBad i := addrBad_of_exec_raises_addr hb h
    simp only [List.mem_cons, List.not_mem_nil, or_false] at hi
    rcases hi with rfl | rfl | rfl | rfl | rfl | rfl | rfl <;> exact haddr

/-- Settles O12: below register 0xFF the value's range is the one check left. -/
theorem wordOutsideItsRangeRaisesRange : Obligations.WordOutsideItsRangeRaisesRange := by
  intro reg v s hb hreg
  have haddr : ¬reg.toNat + 2 - 1 > 0xFF := Nat.not_lt.2 hreg
  refine ⟨fun hbad => exec_issue_raises_range hb not_false not_false haddr hbad, fun h0 hmax => ?_⟩
  have hrange : ¬(v.toInt < 0 ∨ v.toInt > 0xFFFF) := by omega
  exact exec_issue_passes hb not_false not_false haddr hrange trivial

end Sys2Proof.Machine
end

section
/-! SUPPORT. Bit masks and fields bit by bit (R69, R73 to R75), and the steps of the bit commands whose
transaction the transport answers. -/

namespace Sys2Proof.Machine

open Sys2Proof.Expect

/-! ### Masks -/

section
variable {start : BitVec 3} {len : BitVec 4}

/-- R69: the set bits of the mask are exactly START down to lsb. -/
theorem fieldMask_getLsbD (hs : len.toNat ≤ start.toNat + 1) (k : Nat) :
    (fieldMask start len).getLsbD k = decide (fieldLsb start len ≤ k ∧ k ≤ start.toNat) := by
  have h7 : start.toNat < 8 := start.isLt
  rw [fieldMask, BitVec.getLsbD_ofNat, Nat.one_shiftLeft, Nat.testBit_shiftLeft,
    Nat.testBit_two_pow_sub_one, Bool.eq_iff_iff]
  simp only [Bool.and_eq_true, decide_eq_true_eq]
  unfold fieldLsb
  omega

theorem bitMask_getLsbD (pos : BitVec 3) (k : Nat) :
    (bitMask pos).getLsbD k = decide (pos.toNat = k) := by
  have h7 : pos.toNat < 8 := pos.isLt
  rw [bitMask, ← BitVec.twoPow_eq, BitVec.getLsbD_twoPow, decide_eq_true h7, Bool.true_and]

/-- The mask keeps of `DATA << lsb` the low LEN bits of DATA (R75, R87). -/
theorem shifted_and_fieldMask (hs : len.toNat ≤ start.toNat + 1) (n : Nat) :
    BitVec.ofNat 8 (n <<< fieldLsb start len) &&& fieldMask start len =
      BitVec.ofNat 8 ((n % 2 ^ len.toNat) <<< fieldLsb start len) := by
  refine BitVec.eq_of_getLsbD_eq fun k hk => ?_
  have hin : k - fieldLsb start len < len.toNat ∧ fieldLsb start len ≤ k ↔
      fieldLsb start len ≤ k ∧ k ≤ start.toNat := by unfold fieldLsb; omega
  rw [BitVec.getLsbD_and, fieldMask_getLsbD hs, BitVec.getLsbD_ofNat, BitVec.getLsbD_ofNat,
    Nat.testBit_shiftLeft, Nat.testBit_shiftLeft, Nat.testBit_mod_two_pow, Bool.eq_iff_iff]
  simp only [Bool.and_eq_true, decide_eq_true_eq, ← hin]
  tauto

/-- A field moved up to lsb fits the byte, so moving it down again loses nothing (R74, R87). -/
theorem shifted_toNat_shiftRight (hs : len.toNat ≤ start.toNat + 1) {n : Nat} (hn : n < 2 ^ len.toNat) :
    (BitVec.ofNat 8 (n <<< fieldLsb start len) >>> fieldLsb start len).toNat = n := by
  have hfit : n * 2 ^ fieldLsb start len < 2 ^ 8 := calc
    n * 2 ^ fieldLsb start len < 2 ^ len.toNat * 2 ^ fieldLsb start len :=
      Nat.mul_lt_mul_of_pos_right hn (Nat.two_pow_pos _)
    _ = 2 ^ (start.toNat + 1) := by rw [← pow_add, fieldLsb, Nat.add_sub_cancel' hs]
    _ ≤ 2 ^ 8 := Nat.pow_le_pow_right Nat.two_pos start.isLt
  rw [BitVec.toNat_ushiftRight, BitVec.toNat_ofNat, Nat.shiftLeft_eq, Nat.mod_eq_of_lt hfit,
    Nat.shiftRight_eq_div_pow, Nat.mul_div_cancel _ (Nat.two_pow_pos _)]

end

/-! ### The byte written -/

/-- Replacing the bits of a mask changes no bit outside it. -/
theorem merge_xor_and_not (old new mask : Byte) :
    (((old &&& ~~~mask) ||| (new &&& mask)) ^^^ old) &&& ~~~mask = 0 := by
  ext k hk
  cases hm : mask[k] <;> simp [hm]

/-- Replacing the bits of a mask puts the new bits there. -/
theorem merge_and (old new mask : Byte) :
    ((old &&& ~~~mask) ||| (new &&& mask)) &&& mask = new &&& mask := by
  ext k hk
  cases hm : mask[k] <;> simp [hm]

/-- R73's byte is R75's with the mask of one bit. -/
theorem setBit_eq_merge (old : Byte) (pos : BitVec 3) (x : Bool) :
    setBit old pos x = (old &&& ~~~bitMask pos) ||| ((if x then bitMask pos else 0) &&& bitMask pos) := by
  ext k hk
  cases x <;> cases hm : (bitMask pos)[k] <;> simp [setBit, hm]

theorem setBit_getLsbD_self (old : Byte) (pos : BitVec 3) (x : Bool) :
    (setBit old pos x).getLsbD pos.toNat = x := by
  cases x <;> simp [setBit, bitMask_getLsbD]

theorem insertField_and_fieldMask {start : BitVec 3} {len : BitVec 4} (old : Byte) (v : Data)
    (hs : len.toNat ≤ start.toNat + 1) : insertField old start len v &&& fieldMask start len =
      BitVec.ofNat 8 ((v.toNat % 2 ^ len.toNat) <<< fieldLsb start len) :=
  (merge_and _ _ _).trans (shifted_and_fieldMask hs _)

/-- The field a write puts into a byte is the field a read takes out of it (R87). -/
theorem extractField_insertField {start : BitVec 3} {len : BitVec 4} (old : Byte) (v : Data)
    (hs : len.toNat ≤ start.toNat + 1) :
    (extractField (insertField old start len v) start len).toNat = v.toNat % 2 ^ len.toNat := by
  rw [extractField, insertField_and_fieldMask old v hs]
  exact shifted_toNat_shiftRight hs (Nat.mod_lt _ (Nat.two_pow_pos _))

/-! ### One answered step -/

section
variable {s : State} {reg : RegAddr} {start : BitVec 3} {len : BitVec 4} {b : Byte}

/-- A transaction with a reply on the list that is no error and no reset succeeds (R38, R39). -/
theorem replyTo_ok_of_head (hc : NotCut s) (he : s.replies.head? ≠ some .error) (hn : s.replies ≠ [])
    (req : Request) : ∃ d, replyTo req s = .ok d ∧ d.length = req.readLen := by
  cases hl : s.replies with
  | nil => exact absurd hl hn
  | cons r rest =>
    cases r with
    | ok v => exact ⟨_, replyTo_ok_cons hl, fillBytes_length _ _ _ _⟩
    | error => exact absurd (by rw [hl]; rfl) he
    | cutByReset p => exact absurd (by rw [hl]; rfl) (hc p)

/-- A write delivers no bytes (R14). -/
theorem replyTo_writeByte_ok (hc : NotCut s) (he : s.replies.head? ≠ some .error) (hn : s.replies ≠ [])
    (b : Byte) : replyTo (.writeByte reg b) s = .ok [] := by
  obtain ⟨d, hd, hl⟩ := replyTo_ok_of_head hc he hn (.writeByte reg b)
  rwa [List.eq_nil_of_length_eq_zero hl] at hd

theorem afterTxn_eq_answered {req : Request} {r : Reply} (h : replyTo req s = r) :
    afterTxn req s = answered req r s := by
  subst h; rfl

/-- An accessor's last step completes the command (R28, R68). -/
theorem stepTo_last {n rlen : Nat} (hf : s.fsm = .access) (hn : n ≤ s.seq.toNat + 1) :
    stepTo n rlen s = completed rlen { s with seq := s.seq + 1 } := by
  simp [stepTo, hn, complete, completed, advance, Status.completed, hf]

/-- The read step of READ_BIT, answered (R72). -/
theorem exec_readBit_answered (ha : InAccess s) (hr : replyTo (.readByte reg) s = .ok [b]) :
    exec (.readBit reg start) s = .next (completed 0
      { answered (.readByte reg) (.ok [b]) s with seq := s.seq + 1, result := bitResult b start }) := by
  obtain ⟨hb, hf⟩ := ha
  rw [exec, execReadBit, accessor_busy hb hf, memReadByte, transact_ok hr, afterTxn_eq_answered hr]
  exact congrArg _ (stepTo_last hf (Nat.le_add_left _ _))

/-- The read step of READ_BITS, answered (R74). -/
theorem exec_readBits_answered (ha : InAccess s) (hr : replyTo (.readByte reg) s = .ok [b]) :
    exec (.readBits reg start len) s = .next (completed 0
      { answered (.readByte reg) (.ok [b]) s with
        seq := s.seq + 1, result := (extractField b start len).setWidth 32 }) := by
  obtain ⟨hb, hf⟩ := ha
  rw [exec, execReadBits, accessor_busy hb hf, memReadByte, transact_ok hr, afterTxn_eq_answered hr]
  exact congrArg _ (stepTo_last hf (Nat.le_add_left _ _))

/-- The write step of a read-modify-write, answered: the byte computed from TMP is written, is RESULT, and
the command completes (R73, R75). -/
theorem readModifyWrite_write_answered {f : Byte → Byte} (hf : s.fsm = .access) (hq : s.seq = 1)
    (hr : replyTo (.writeByte reg (f s.tmp)) s = .ok []) :
    readModifyWrite reg f s = .next (completed 0
      { answered (.writeByte reg (f s.tmp)) (.ok []) s with
        seq := 2, result := (f s.tmp).setWidth 32 }) := by
  have hn : 2 ≤ s.seq.toNat + 1 := by rw [hq]; decide
  have h2 : (2 : Half) = s.seq + 1 := by rw [hq]; rfl
  rw [readModifyWrite, if_neg (by rw [hq]; decide), memWriteByte, transact_ok hr,
    afterTxn_eq_answered hr, h2]
  exact congrArg _ (stepTo_last hf hn)

/-- The write step of WRITE_BIT, answered (R73). -/
theorem exec_writeBit_answered {x : Bool} (ha : InAccess s) (hq : s.seq = 1)
    (hr : replyTo (.writeByte reg (setBit s.tmp start x)) s = .ok []) :
    exec (.writeBit reg start x) s = .next (completed 0
      { answered (.writeByte reg (setBit s.tmp start x)) (.ok []) s with
        seq := 2, result := (setBit s.tmp start x).setWidth 32 }) :=
  (accessor_busy ha.1 ha.2).trans
    (readModifyWrite_write_answered (f := fun b => setBit b start x) ha.2 hq hr)

/-- The write step of WRITE_BITS, answered (R75). -/
theorem exec_writeBits_answered {v : Data} (ha : InAccess s) (hq : s.seq = 1)
    (hr : replyTo (.writeByte reg (insertField s.tmp start len v)) s = .ok []) :
    exec (.writeBits reg start len v) s = .next (completed 0
      { answered (.writeByte reg (insertField s.tmp start len v)) (.ok []) s with
        seq := 2, result := (insertField s.tmp start len v).setWidth 32 }) :=
  (accessor_busy ha.1 ha.2).trans
    (readModifyWrite_write_answered (f := fun b => insertField b start len v) ha.2 hq hr)

end

end Sys2Proof.Machine
end

section
/-! PROOFS. The statements of 40_accessor.md about masks and the read-back of a field. -/

namespace Sys2Proof.Machine

open Sys2Proof.Expect

/-- Settles O21: the byte written is TMP with the mask's bits replaced, and a read takes those bits out. -/
theorem fieldWriteReadsBack : Obligations.FieldWriteReadsBack := by
  intro reg start len v x s u hs hq hc he hn hu
  refine ⟨fun _ hlen => ?_, ?_⟩
  · refine ⟨insertField s.tmp start len v, _,
      exec_writeBits_answered hs hq (replyTo_writeByte_ok hc he hn _), rfl, merge_xor_and_not _ _ _,
      insertField_and_fieldMask _ _ hlen, fun hr => ⟨_, exec_readBits_answered hu hr, ?_⟩⟩
    exact (BitVec.toNat_setWidth_of_le (by decide)).trans (extractField_insertField _ _ hlen)
  · have hbit : (setBit s.tmp start x).getLsbD start.toNat = x := setBit_getLsbD_self _ _ _
    refine ⟨setBit s.tmp start x, _,
      exec_writeBit_answered hs hq (replyTo_writeByte_ok hc he hn _), rfl, ?_, hbit,
      fun hr => ⟨_, exec_readBit_answered hu hr, ?_⟩⟩
    · rw [setBit_eq_merge]
      exact merge_xor_and_not _ _ _
    · change bitResult (setBit s.tmp start x) start = _
      rw [bitResult, hbit]

/-- Settles O16: the mask bit by bit. -/
theorem maskBitsAreTheField : Obligations.MaskBitsAreTheField := by
  intro start len _ hlen
  refine ⟨rfl, (BitVec.allOnes_sub_eq_not _).symm, fun k _ => ⟨?_, ?_⟩⟩
  · rw [fieldMask_getLsbD hlen, decide_eq_true_eq, fieldLsb]
  · rw [bitMask_getLsbD, decide_eq_true_eq, eq_comm]

end Sys2Proof.Machine
end

section
/-! SUPPORT. The reader's steps: the step each control state takes, its answered count read in the
statements' words, what the classification of a count gives in each range, and the steps that never look
at the clock (R90 to R97). -/

namespace Sys2Proof.Machine

open Sys2Proof.Expect

section
variable {s : State} {p : Data} {f : Fsm}

/-! ### The step of each control state -/

theorem exec_counting (h : InReader f s) (hf : f = .polling ∨ f = .waiting) :
    exec (.fifoGetPacket p) s = pollStep p.toNat s := by
  obtain ⟨hb, hs⟩ := h
  obtain rfl | rfl := hf <;> simp [exec, execFifoGetPacket, hb, hs]

theorem exec_drainReset (h : InReader .drainReset s) : exec (.fifoGetPacket p) s = resetStep s := by
  obtain ⟨hb, hs⟩ := h
  simp [exec, execFifoGetPacket, hb, hs]

theorem exec_drainResetWait (h : InReader .drainResetWait s) :
    exec (.fifoGetPacket p) s = resetWaitStep p.toNat s := by
  obtain ⟨hb, hs⟩ := h
  simp [exec, execFifoGetPacket, hb, hs]

theorem exec_drainDiscard (h : InReader .drainDiscard s) :
    exec (.fifoGetPacket p) s = discardStep p.toNat s := by
  obtain ⟨hb, hs⟩ := h
  simp [exec, execFifoGetPacket, hb, hs]

theorem exec_readPacket (h : InReader .readPacket s) :
    exec (.fifoGetPacket p) s = packetStep p.toNat s := by
  obtain ⟨hb, hs⟩ := h
  simp [exec, execFifoGetPacket, hb, hs]

/-- The read half of the reset's read-modify-write (R93). -/
theorem resetStep_read (h : s.seq = 0) : resetStep s =
    memReadByte s.cfg.fifoResetReg s fun b t => .next { t with tmp := b, seq := 1 } := if_pos h

/-- The write half of the reset's read-modify-write (R93). -/
theorem resetStep_write (h : s.seq ≠ 0) : resetStep s =
    memWriteByte s.cfg.fifoResetReg (setBit s.tmp s.cfg.fifoResetBit true) s fun t =>
      .next { t with fsm := .drainResetWait } := if_neg h

/-- A step in DRAIN_DISCARD with bytes left to drop drops a chunk (R95). -/
theorem discardStep_drop {p : Nat} (h : 0 < s.remain.toNat) : discardStep p s =
    memRead s.cfg.fifoDataAddr (chunk s) s fun _ t =>
      .next { t with remain := BitVec.ofNat 16 (t.remain.toNat - chunk t) } := if_pos h

/-- A step in DRAIN_DISCARD with nothing left to drop re-reads the count (R95). -/
theorem discardStep_recount {p : Nat} (h : s.remain.toNat = 0) :
    discardStep p s = countRead s fun c t => .next (afterDiscard p c t) := by
  rw [discardStep, if_neg (by omega)]

/-! ### The count read -/

/-- The count of R90 is the big-endian word (R41). -/
theorem countOf_pair (hi lo : Byte) : countOf [hi, lo] = count hi lo := beWord_toNat hi lo

/-- The state after an answered count read, in the statements' words (R90). -/
theorem counted_eq_answered {hi lo : Byte}
    (hr : replyTo (.read s.cfg.fifoCountAddr 2) s = .ok [hi, lo]) :
    counted [hi, lo] s = { answered (.read s.cfg.fifoCountAddr 2) (.ok [hi, lo]) s with
      fifocount := BitVec.ofNat 16 (count hi lo) } := by
  have hword : beWord ([hi, lo].getD 0 0) ([hi, lo].getD 1 0) = BitVec.ofNat 16 (count hi lo) :=
    beWord_eq hi lo
  rw [counted, afterTxn_eq_answered hr, hword]

theorem countRead_answered {hi lo : Byte} (k : Nat → State → Out)
    (hr : replyTo (.read s.cfg.fifoCountAddr 2) s = .ok [hi, lo]) :
    countRead s k = k (count hi lo) (counted [hi, lo] s) := by
  rw [countRead, memRead, transact_ok hr, ← countOf_pair]
  rfl

end

/-! ### The classification of a count -/

/-- The state with the clock input showing `n`. -/
def clockAt (n : Ticks) (s : State) : State := { s with now := n }

section
variable {s : State} {p c : Nat}

theorem expired_iff : expired s = true ↔ Expired s := decide_eq_true_iff

/-- The deadline tested after a count read is that of the state before it (R100). -/
theorem expired_counted {d : List Byte} : expired (counted d s) = true ↔ Expired s :=
  expired_iff (s := counted d s)

theorem classify_of_eq (h : c = p) : classify p c s = enterRead p s := if_pos h

theorem classify_of_overflow (h : c > p) (ho : c > s.cfg.ovfThreshold) : classify p c s =
    { s with status := { s.status with ovf := true }, seq := 0, fsm := .drainReset } := by
  rw [classify, if_neg (by omega), if_pos ⟨h, ho⟩]

theorem classify_of_backlog (h : c > p) (ho : c ≤ s.cfg.ovfThreshold) : classify p c s =
    { s with status := { s.status with drained := true }, remain := BitVec.ofNat 16 (c - p),
             fsm := .drainDiscard } := by
  rw [classify, if_neg (by omega), if_neg (by omega), if_pos h]

theorem classify_of_short (h : c < p) : classify p c s = if expired s then timeOut s else s := by
  rw [classify, if_neg (by omega), if_neg (by omega), if_neg (by omega)]

theorem afterReset_zero (h : c = 0) : afterReset p c s = if expired s then timeOut s else s :=
  if_pos h

theorem afterReset_of_eq (h0 : c ≠ 0) (h : c = p) : afterReset p c s = enterRead p s := by
  rw [afterReset, if_neg h0, if_pos h]

theorem afterReset_of_other (h0 : c ≠ 0) (h : c ≠ p) : afterReset p c s =
    if expired s then timeOut s else { s with fsm := .waiting } := by
  rw [afterReset, if_neg h0, if_neg h]

theorem afterDiscard_of_gt (h : c > p) :
    afterDiscard p c s = { s with remain := BitVec.ofNat 16 (c - p) } := if_pos h

theorem afterDiscard_of_eq (h : c = p) : afterDiscard p c s = enterRead p s := by
  rw [afterDiscard, if_neg (by omega), if_pos h]

theorem afterDiscard_of_short (h : c < p) : afterDiscard p c s =
    if expired s then timeOut s else { s with fsm := .waiting } := by
  rw [afterDiscard, if_neg (by omega), if_neg (by omega)]

/-! The reader stops being busy after a count only by the empty result. -/

theorem classify_eq_timeOut (hb : s.status.busy = true) (h : (classify p c s).status.busy = false) :
    classify p c s = timeOut s := by
  obtain ⟨-, e⟩ | ⟨-, -, e⟩ | ⟨-, -, e⟩ | ⟨-, -, e⟩ | ⟨-, -, e⟩ := classify_cases p c s
  case inr.inr.inr.inl => exact e
  all_goals rw [e] at h; exact absurd (hb.symm.trans h) (by decide)

theorem afterReset_eq_timeOut (hb : s.status.busy = true)
    (h : (afterReset p c s).status.busy = false) : afterReset p c s = timeOut s := by
  obtain ⟨-, -, e⟩ | ⟨-, -, e⟩ | ⟨-, -, e⟩ | ⟨-, -, -, e⟩ := afterReset_cases p c s
  case inr.inr.inl => exact e
  all_goals rw [e] at h; exact absurd (hb.symm.trans h) (by decide)

theorem afterDiscard_eq_timeOut (hb : s.status.busy = true)
    (h : (afterDiscard p c s).status.busy = false) : afterDiscard p c s = timeOut s := by
  obtain ⟨-, e⟩ | ⟨-, e⟩ | ⟨-, -, e⟩ | ⟨-, -, e⟩ := afterDiscard_cases p c s
  case inr.inr.inl => exact e
  all_goals rw [e] at h; exact absurd (hb.symm.trans h) (by decide)

/-! The ranges of the count in which the deadline is tested (R100). -/

theorem classify_timedOut_iff (hf : s.fsm ≠ .timedOut) :
    (classify p c s).fsm = .timedOut ↔ c < p ∧ Expired s := by
  rw [← expired_iff]
  obtain ⟨h, e⟩ | ⟨h, -, e⟩ | ⟨h, -, e⟩ | ⟨h, he, e⟩ | ⟨h, he, e⟩ := classify_cases p c s <;> rw [e]
  · simp [h]
  · simp [h.le]
  · simp [h.le]
  · simp [h, he]
  · simp [hf, he]

theorem afterReset_timedOut_iff (hf : s.fsm ≠ .timedOut) :
    (afterReset p c s).fsm = .timedOut ↔ (c = 0 ∨ c ≠ p) ∧ Expired s := by
  rw [← expired_iff]
  obtain ⟨h, he, e⟩ | ⟨h0, h, e⟩ | ⟨h, he, e⟩ | ⟨h0, h, he, e⟩ := afterReset_cases p c s <;> rw [e]
  · simp [hf, he]
  · simp [h0, ← h]
  · simp [h, he]
  · simp [he]

theorem afterDiscard_timedOut_iff (hf : s.fsm ≠ .timedOut) :
    (afterDiscard p c s).fsm = .timedOut ↔ c < p ∧ Expired s := by
  rw [← expired_iff]
  obtain ⟨h, e⟩ | ⟨h, e⟩ | ⟨h, he, e⟩ | ⟨h, he, e⟩ := afterDiscard_cases p c s <;> rw [e]
  · simp [hf, h.le]
  · simp [h]
  · simp [h, he]
  · simp [he]

/-! In every other range the clock does not matter. -/

theorem classify_clockAt (h : p ≤ c) (n : Ticks) :
    classify p c (clockAt n s) = clockAt n (classify p c s) := by
  obtain rfl | hgt := h.eq_or_lt
  · rw [classify_of_eq rfl, classify_of_eq rfl]; rfl
  · obtain ho | ho := Nat.lt_or_ge s.cfg.ovfThreshold c
    · rw [classify_of_overflow hgt ho, classify_of_overflow (s := clockAt n s) hgt ho]; rfl
    · rw [classify_of_backlog hgt ho, classify_of_backlog (s := clockAt n s) hgt ho]; rfl

theorem afterReset_clockAt (h0 : c ≠ 0) (h : c = p) (n : Ticks) :
    afterReset p c (clockAt n s) = clockAt n (afterReset p c s) := by
  rw [afterReset_of_eq h0 h, afterReset_of_eq h0 h]; rfl

theorem afterDiscard_clockAt (h : p ≤ c) (n : Ticks) :
    afterDiscard p c (clockAt n s) = clockAt n (afterDiscard p c s) := by
  obtain rfl | hgt := h.eq_or_lt
  · rw [afterDiscard_of_eq rfl, afterDiscard_of_eq rfl]; rfl
  · rw [afterDiscard_of_gt hgt, afterDiscard_of_gt hgt]; rfl

end

/-! ### The packet read -/

section
variable {s : State} {p : Nat}

theorem packetDone_of_rest (h : s.remain ≠ 0) : packetDone p s = s := if_neg h

theorem packetDone_of_none (h : s.remain = 0) : packetDone p s =
    complete p { s with fsm := .packetReady, status := { s.status with pkt := true } } := if_pos h

/-- An answered packet read stores its chunk and moves IDX and REMAIN on (R96). -/
theorem packetStep_answered {d : List Byte} (hfit : s.idx.toNat + s.remain.toNat ≤ s.cfg.bufSize)
    (hr : replyTo (.read s.cfg.fifoDataAddr (chunk s)) s = .ok d) :
    packetStep p s = .next (packetDone p
      { answered (.read s.cfg.fifoDataAddr (chunk s)) (.ok d) s with
        buf := s.buf.writeBlock s.idx.toNat d, idx := BitVec.ofNat 16 (s.idx.toNat + chunk s),
        remain := BitVec.ofNat 16 (s.remain.toNat - chunk s) }) := by
  have hlen : d.length ≤ s.remain.toNat := (replyTo_length hr).trans_le (Nat.min_le_left _ _)
  rw [packetStep, memRead, transact_ok hr, afterTxn_eq_answered hr, bufStore_ok (by
    change s.idx.toNat + d.length ≤ s.cfg.bufSize; omega)]
  rfl

end

/-! ### The clock and a transaction -/

section
variable {s : State} {n : Ticks} {p : Nat}

theorem withNow_next : withNow n (.next s) = .next (clockAt n s) := rfl

/-- A transaction does not look at the clock, so a step does not if its computation does not (R117). -/
theorem transact_clockAt {req : Request} {k : List Byte → State → Out}
    (hk : ∀ d u, k d (clockAt n u) = withNow n (k d u)) :
    transact req (clockAt n s) k = withNow n (transact req s k) := by
  have hreply : replyTo req (clockAt n s) = replyTo req s := rfl
  unfold transact
  rw [hreply]
  cases replyTo req s with
  | ok d => exact hk d (afterTxn req s)
  | error => rfl
  | cutByReset b => rfl

theorem bufStore_outside {i : Nat} {v : List Byte} {k : State → Out}
    (h : ¬i + v.length ≤ s.cfg.bufSize) : bufStore i v s k = .fault .bufOutOfRange := if_neg h

theorem bufStore_clockAt {i : Nat} {v : List Byte} {k : State → Out}
    (hk : ∀ u, k (clockAt n u) = withNow n (k u)) :
    bufStore i v (clockAt n s) k = withNow n (bufStore i v s k) := by
  by_cases hi : i + v.length ≤ s.cfg.bufSize
  · rw [bufStore_ok hi, bufStore_ok (s := clockAt n s) hi]
    exact hk { s with buf := s.buf.writeBlock i v }
  · rw [bufStore_outside hi, bufStore_outside (s := clockAt n s) hi]; rfl

theorem resetStep_clockAt : resetStep (clockAt n s) = withNow n (resetStep s) := by
  by_cases h0 : s.seq = 0
  · rw [resetStep_read h0, resetStep_read (s := clockAt n s) h0]
    exact transact_clockAt fun d u => rfl
  · rw [resetStep_write h0, resetStep_write (s := clockAt n s) h0]
    exact transact_clockAt fun d u => rfl

theorem discardStep_clockAt (h : 0 < s.remain.toNat) :
    discardStep p (clockAt n s) = withNow n (discardStep p s) := by
  rw [discardStep_drop h, discardStep_drop (s := clockAt n s) h]
  exact transact_clockAt fun d u => rfl

theorem packetDone_clockAt : packetDone p (clockAt n s) = clockAt n (packetDone p s) := by
  by_cases h0 : s.remain = 0
  · rw [packetDone_of_none h0, packetDone_of_none (s := clockAt n s) h0]; rfl
  · rw [packetDone_of_rest h0, packetDone_of_rest (s := clockAt n s) h0]

theorem packetStep_clockAt : packetStep p (clockAt n s) = withNow n (packetStep p s) := by
  rw [packetStep, packetStep, memRead, memRead]
  refine transact_clockAt fun d u => bufStore_clockAt (s := u) fun v => ?_
  rw [withNow_next, ← packetDone_clockAt]
  rfl

end

/-! ### Where the deadline is tested -/

section
variable {s t : State} {p : Data} {n : Nat}

/-- A step does not end in TIMED_OUT if the computation after its transaction does not. -/
theorem Transacted.fsm_ne_timedOut {req : Request} {next : List Byte → State}
    (h : Transacted req next s t) (hn : ∀ d, (next d).fsm ≠ .timedOut) : t.fsm ≠ .timedOut := by
  obtain ⟨d, -, -, rfl⟩ | ⟨-, rfl⟩ | ⟨b, -, rfl⟩ := h
  · exact hn d
  · exact Fsm.noConfusion
  · exact Fsm.noConfusion

theorem packetDone_fsm_ne_timedOut (hf : s.fsm ≠ .timedOut) :
    (packetDone n s).fsm ≠ .timedOut := by
  by_cases h0 : s.remain = 0
  · rw [packetDone_of_none h0]; exact Fsm.noConfusion
  · rwa [packetDone_of_rest h0]

/-- The reader's step in `s` reads the FIFO count (R92, R94, R95). -/
def ReadsCount (s : State) : Prop :=
  s.fsm = .polling ∨ s.fsm = .waiting ∨ s.fsm = .drainResetWait ∨
    (s.fsm = .drainDiscard ∧ s.remain.toNat = 0)

/-- R100: only a step that reads the count can end in TIMED_OUT. -/
theorem readsCount_of_timedOut (hb : s.status.busy = true) (hf : s.fsm ≠ .timedOut)
    (hx : exec (.fifoGetPacket p) s = .next t) (ht : t.fsm = .timedOut) : ReadsCount s := by
  obtain ⟨hs | hs, -⟩ | ⟨-, -, h⟩ | ⟨-, -, h⟩ | ⟨hs, -⟩ | ⟨-, -, h⟩ | ⟨hs, h0, -⟩ | ⟨-, h, -⟩ :=
    execFifoGetPacket_busy hb hx
  · exact .inl hs
  · exact .inr (.inl hs)
  · exact absurd ht (h.fsm_ne_timedOut fun _ => hf)
  · exact absurd ht (h.fsm_ne_timedOut fun _ => Fsm.noConfusion)
  · exact .inr (.inr (.inl hs))
  · exact absurd ht (h.fsm_ne_timedOut fun _ => hf)
  · exact .inr (.inr (.inr ⟨hs, h0⟩))
  · exact absurd ht (h.fsm_ne_timedOut fun _ => packetDone_fsm_ne_timedOut hf)

end

/-- R100 of one step of the reader: it ends in TIMED_OUT just when it is at `place` and the deadline has
elapsed, and off it the clock changes nothing. -/
def DeadlineTestedAt (place : Prop) (p : Data) (s : State) : Prop :=
  ((∃ t, exec (.fifoGetPacket p) s = .next t ∧ t.fsm = .timedOut) ↔ place ∧ Expired s) ∧
  (¬place → ∀ n : Ticks,
    exec (.fifoGetPacket p) (clockAt n s) = withNow n (exec (.fifoGetPacket p) s))

section
variable {s : State} {p : Data} {place : Prop} {hi lo : Byte}

/-- A step that computes `g` of its count read tests the deadline where `g` does. -/
theorem deadlineTestedAt_of_count {g : Nat → State → State} (hf : s.fsm ≠ .timedOut)
    (hr : replyTo (.read s.cfg.fifoCountAddr 2) s = .ok [hi, lo])
    (hx : ∀ n, exec (.fifoGetPacket p) (clockAt n s) =
      countRead (clockAt n s) fun c t => .next (g c t))
    (ht : ∀ u : State, u.fsm ≠ .timedOut →
      ((g (count hi lo) u).fsm = .timedOut ↔ place ∧ Expired u))
    (hn : ¬place → ∀ (u : State) (n : Ticks),
      g (count hi lo) (clockAt n u) = clockAt n (g (count hi lo) u)) :
    DeadlineTestedAt place p s := by
  have hat n : exec (.fifoGetPacket p) (clockAt n s) =
      .next (g (count hi lo) (clockAt n (counted [hi, lo] s))) :=
    (hx n).trans (countRead_answered (s := clockAt n s) _ hr)
  have hs : exec (.fifoGetPacket p) s = .next (g (count hi lo) (counted [hi, lo] s)) := hat s.now
  refine ⟨?_, fun hp n => ?_⟩
  · rw [hs]
    refine Iff.trans ?_ (ht (counted [hi, lo] s) hf)
    simp
  · rw [hat, hs, hn hp]
    rfl

/-- A step that reads no count and never looks at the clock tests the deadline nowhere. -/
theorem deadlineTestedAt_nowhere {step : State → Out} (hb : s.status.busy = true)
    (hf : s.fsm ≠ .timedOut) (hc : ¬ReadsCount s)
    (hx : ∀ n, exec (.fifoGetPacket p) (clockAt n s) = step (clockAt n s))
    (hn : ∀ n, step (clockAt n s) = withNow n (step s)) : DeadlineTestedAt False p s := by
  have hs : exec (.fifoGetPacket p) s = step s := hx s.now
  refine ⟨iff_of_false ?_ fun h => h.1, fun _ n => by rw [hx, hn, hs]⟩
  rintro ⟨t, ht, hto⟩
  exact hc (readsCount_of_timedOut hb hf ht hto)

end

/-! ### How the reader ends -/

/-- R98's three ends of FIFO_GET_PACKET. -/
def ReaderEnded (p : Data) (t : State) : Prop :=
  t.status.done = true ∧
  ((t.fsm = .packetReady ∧ t.status.pkt = true ∧ t.status.timeout = false ∧
      t.status.rlen.toNat = p.toNat ∧ t.status.err = .none) ∨
   (t.fsm = .timedOut ∧ t.status.timeout = true ∧ t.status.pkt = false ∧
      t.status.rlen = 0 ∧ t.status.err = .none) ∨
   (t.fsm = .idle ∧ t.status.err = .transport ∧ t.status.pkt = false ∧ t.status.timeout = false ∧
      t.status.rlen = 0))

/-- STATUS of a running command: busy, with no outcome yet (R21, R112). -/
def Unfinished (t : Status) : Prop :=
  t.busy = true ∧ t.err = .none ∧ t.pkt = false ∧ t.timeout = false

section
variable {s t : State} {p : Data}

theorem unfinished_of_statusOk (h : StatusOk s) (hb : s.status.busy = true) : Unfinished s.status := by
  obtain ⟨hbusy, hpkt, htime, hrun, -, -, -⟩ := h
  have hf : s.fsm.isBusy = true := hbusy ▸ hb
  refine ⟨hb, (hrun hb).2.1, hpkt.trans ?_, htime.trans ?_⟩ <;>
    exact decide_eq_false fun h => by rw [h] at hf; cases hf

/-- R21: a busy command is in neither terminal state. -/
theorem Fsm.ne_timedOut_of_isBusy {f : Fsm} (h : f.isBusy = true) : f ≠ .timedOut := by
  rintro rfl; cases h

theorem timeOut_ended (h : Unfinished s.status) : ReaderEnded p (timeOut s) := by
  obtain ⟨-, herr, hpkt, -⟩ := h
  exact ⟨rfl, .inr (.inl ⟨rfl, rfl, hpkt, rfl, herr⟩)⟩

theorem raise_transport_ended (h : Unfinished s.status) (v : Data) :
    ReaderEnded p (raise .transport v s) := by
  obtain ⟨-, -, hpkt, htime⟩ := h
  exact ⟨rfl, .inr (.inr ⟨rfl, rfl, hpkt, htime, rfl⟩)⟩

/-- The packet read ends the command only with the whole packet (R96). -/
theorem packetDone_ended (hs : Unfinished s.status) (hp : p.toNat ≤ 65535)
    (h : (packetDone p.toNat s).status.busy = false) : ReaderEnded p (packetDone p.toNat s) := by
  obtain ⟨hb, herr, -, htime⟩ := hs
  by_cases h0 : s.remain = 0
  · rw [packetDone_of_none h0]
    exact ⟨rfl, .inl ⟨rfl, rfl, htime, Nat.mod_eq_of_lt (by omega), herr⟩⟩
  · rw [packetDone_of_rest h0, hb] at h
    cases h

theorem replyTo_ne_cutByReset (hc : NotCut s) (req : Request) (b : Bool) :
    replyTo req s ≠ .cutByReset b := by
  intro h
  unfold replyTo at h
  split at h
  · split at h <;> cases h
  · cases h
  · cases h
  · next hl => exact hc _ (by rw [hl]; rfl)

/-- A step that is not cut ends the command as R98 has it, if the computation after its transaction does. -/
theorem Transacted.ended {req : Request} {next : List Byte → State} (h : Transacted req next s t)
    (hs : Unfinished s.status) (hc : NotCut s) (hb : t.status.busy = false)
    (hn : ∀ d, (next d).status.busy = false → ReaderEnded p (next d)) : ReaderEnded p t := by
  obtain ⟨d, -, -, rfl⟩ | ⟨-, rfl⟩ | ⟨b, hd, -⟩ := h
  · exact hn d hb
  · exact raise_transport_ended (s := afterTxn req s) hs _
  · exact absurd hd (replyTo_ne_cutByReset hc req b)

/-- The packet size of a running packet read passed the check of issue, so RLEN can hold it (R62, R96). -/
theorem packetSize_le (h : Inv s) (hd : decode s.cmd = .ok (.fifoGetPacket p))
    (hf : s.fsm = .readPacket) : p.toNat ≤ 65535 := by
  obtain ⟨⟨-, hbuf, -⟩, -, -, hctl⟩ := h
  rw [ControlOk, hf] at hctl
  obtain ⟨q, ⟨hq, hw⟩, -⟩ := hctl
  obtain rfl : p = q := by simpa [hq] using hd.symm
  have hle : p.toNat ≤ s.cfg.bufSize := by
    simp only [Instr.wellFormed, countWithin, Bool.and_eq_true, decide_eq_true_eq] at hw
    exact hw.2
  exact hle.trans hbuf

end

end Sys2Proof.Machine
end

section
/-! PROOFS. The statements of 41_fifo_reader.md: the steps of the packet reader, its ends and its deadline. -/

namespace Sys2Proof.Machine

open Sys2Proof.Expect

/-- Settles O39: by the computation each control state's step ends with. -/
theorem readerEndsInOneOfThreeWays : Obligations.ReaderEndsInOneOfThreeWays := by
  intro p s t hinv hb hd hc hx ht
  have hs : Unfinished s.status := unfinished_of_statusOk hinv.2.2.1 hb
  obtain ⟨-, h⟩ | ⟨-, -, h⟩ | ⟨-, -, h⟩ | ⟨-, h⟩ | ⟨-, -, h⟩ | ⟨-, -, h⟩ | ⟨hf, h, -⟩ :=
    execFifoGetPacket_busy hb hx
  all_goals refine h.ended (p := p) hs hc ht fun d hn => ?_
  · rw [classify_eq_timeOut (s := counted d s) hb hn]
    exact timeOut_ended (s := counted d s) hs
  · exact absurd (hb.symm.trans hn) Bool.noConfusion
  · exact absurd (hb.symm.trans hn) Bool.noConfusion
  · rw [afterReset_eq_timeOut (s := counted d s) hb hn]
    exact timeOut_ended (s := counted d s) hs
  · exact absurd (hb.symm.trans hn) Bool.noConfusion
  · rw [afterDiscard_eq_timeOut (s := counted d s) hb hn]
    exact timeOut_ended (s := counted d s) hs
  · exact packetDone_ended hs (packetSize_le hinv hd hf) hn

/-- Settles O41: each control state has one place or none, and a count outside its range, or no count, does
not meet the clock. -/
theorem deadlineIsTestedAtFourPlaces : Obligations.DeadlineIsTestedAtFourPlaces := by
  intro p s hi lo place hb hacc hbusy _ hr hplace
  have hf : s.fsm ≠ .timedOut := Fsm.ne_timedOut_of_isBusy hbusy
  change DeadlineTestedAt place p s
  have counting (h : s.fsm = .polling ∨ s.fsm = .waiting) :
      DeadlineTestedAt (count hi lo < p.toNat) p s :=
    deadlineTestedAt_of_count (g := classify p.toNat) hf hr
      (fun n => exec_counting (s := clockAt n s) (f := s.fsm) ⟨hb, rfl⟩ h)
      (fun u => classify_timedOut_iff) fun hn u => classify_clockAt (Nat.not_lt.1 hn)
  cases hs : s.fsm with
  | idle | packetReady | timedOut => rw [hs] at hbusy; cases hbusy
  | access => exact absurd hs hacc
  | polling =>
    obtain rfl : place = (count hi lo < p.toNat) := by simp [hplace, hs]
    exact counting (.inl hs)
  | waiting =>
    obtain rfl : place = (count hi lo < p.toNat) := by simp [hplace, hs]
    exact counting (.inr hs)
  | drainResetWait =>
    obtain rfl : place = (count hi lo = 0 ∨ count hi lo ≠ p.toNat) := by
      by_cases h0 : count hi lo = 0 <;> simp [hplace, hs, h0]
    refine deadlineTestedAt_of_count (g := afterReset p.toNat) hf hr
      (fun n => exec_drainResetWait (s := clockAt n s) ⟨hb, hs⟩)
      (fun u => afterReset_timedOut_iff) fun hn u => ?_
    obtain ⟨h0, hp⟩ := not_or.1 hn
    exact afterReset_clockAt h0 (not_not.1 hp)
  | drainDiscard =>
    have hstep n : exec (.fifoGetPacket p) (clockAt n s) = discardStep p.toNat (clockAt n s) :=
      exec_drainDiscard (s := clockAt n s) ⟨hb, hs⟩
    obtain h0 | hpos := Nat.eq_zero_or_pos s.remain.toNat
    · obtain rfl : place = (count hi lo < p.toNat) := by simp [hplace, hs, h0]
      exact deadlineTestedAt_of_count (g := afterDiscard p.toNat) hf hr
        (fun n => (hstep n).trans (discardStep_recount (s := clockAt n s) h0))
        (fun u => afterDiscard_timedOut_iff) fun hn u => afterDiscard_clockAt (Nat.not_lt.1 hn)
    · obtain rfl : place = False := by simp [hplace, hs, hpos.ne']
      exact deadlineTestedAt_nowhere hb hf (by simp [ReadsCount, hs, hpos.ne']) hstep
        fun _ => discardStep_clockAt hpos
  | drainReset =>
    obtain rfl : place = False := by simp [hplace, hs]
    exact deadlineTestedAt_nowhere hb hf (by simp [ReadsCount, hs])
      (fun n => exec_drainReset (s := clockAt n s) ⟨hb, hs⟩) fun _ => resetStep_clockAt
  | readPacket =>
    obtain rfl : place = False := by simp [hplace, hs]
    exact deadlineTestedAt_nowhere hb hf (by simp [ReadsCount, hs])
      (fun n => exec_readPacket (s := clockAt n s) ⟨hb, hs⟩) fun _ => packetStep_clockAt

/-- Settles O34: the count's range picks the branch of the classification. -/
theorem pollingClassifiesTheCount : Obligations.PollingClassifiesTheCount := by
  rintro p s _ f hi lo hs hf hr rfl
  rw [exec_counting hs hf, pollStep, countRead_answered _ hr, ← counted_eq_answered hr]
  refine ⟨fun h => ?_, fun h ho => ?_, fun h ho => ?_, fun h he => ?_, fun h he => ?_⟩
  · rw [classify_of_eq h]; rfl
  · rw [classify_of_overflow (s := counted [hi, lo] s) h ho]; rfl
  · rw [classify_of_backlog (s := counted [hi, lo] s) h ho]; rfl
  · rw [classify_of_short h, if_pos (expired_counted.2 he)]; rfl
  · rw [classify_of_short h, if_neg (expired_counted.not.2 he)]

/-- Settles O35: each half of the read-modify-write is one answered transaction. -/
theorem fifoResetSetsOneBit : Obligations.FifoResetSetsOneBit := by
  intro p s hs
  refine ⟨fun b h0 hr => ?_, ?_⟩
  · rw [exec_drainReset hs, resetStep_read h0, memReadByte, transact_ok hr, afterTxn_eq_answered hr]
    rfl
  · intro nb hnb h1 hr
    have hbyte : setBit s.tmp s.cfg.fifoResetBit true = nb := hnb.symm
    rw [exec_drainReset hs, resetStep_write (by rw [h1]; decide), hbyte, memWriteByte,
      transact_ok hr, afterTxn_eq_answered hr]

/-- Settles O36: P >= 1 keeps the counts 0 and P apart. -/
theorem resetWaitPollsForACount : Obligations.ResetWaitPollsForACount := by
  rintro p s _ hi lo hs hp hr rfl
  rw [exec_drainResetWait hs, resetWaitStep, countRead_answered _ hr, ← counted_eq_answered hr]
  refine ⟨fun h he => ?_, fun h he => ?_, fun h => ?_, fun h0 h he => ?_, fun h0 h he => ?_⟩
  · rw [afterReset_zero h, if_pos (expired_counted.2 he)]; rfl
  · rw [afterReset_zero h, if_neg (expired_counted.not.2 he)]
  · rw [afterReset_of_eq (by omega) h]; rfl
  · rw [afterReset_of_other h0 h, if_pos (expired_counted.2 he)]; rfl
  · rw [afterReset_of_other h0 h, if_neg (expired_counted.not.2 he)]

/-- Settles O37: the two steps of DRAIN_DISCARD. -/
theorem discardDropsTheBacklog : Obligations.DiscardDropsTheBacklog := by
  intro p s hs
  refine ⟨?_, ?_⟩
  · rintro _ d h0 rfl hr
    rw [exec_drainDiscard hs, discardStep_drop h0, memRead, chunk, transact_ok hr,
      afterTxn_eq_answered hr]
    rfl
  · rintro _ hi lo h0 hr rfl
    rw [exec_drainDiscard hs, discardStep_recount h0, countRead_answered _ hr, ← counted_eq_answered hr]
    refine ⟨fun h => ?_, fun h => ?_, fun h he => ?_, fun h he => ?_⟩
    · rw [afterDiscard_of_gt h]
    · rw [afterDiscard_of_eq h]; rfl
    · rw [afterDiscard_of_short h, if_pos (expired_counted.2 he)]; rfl
    · rw [afterDiscard_of_short h, if_neg (expired_counted.not.2 he)]

/-- Settles O38: the chunk is the block written at IDX, and REMAIN tells the last chunk from the others. -/
theorem packetReadStoresTheNextChunk : Obligations.PacketReadStoresTheNextChunk := by
  rintro p s _ k d hs hfit rfl hr rfl
  have hlen : d.length = chunk s := replyTo_length hr
  refine ⟨s.buf.writeBlock s.idx.toNat d, fun j hj => ?_, fun j hj => ?_, fun hk => ?_, fun hk => ?_⟩
  · rw [Memory.read_writeBlock, if_pos ⟨by omega, by rw [hlen]; exact Nat.add_lt_add_left hj _⟩,
      Nat.add_sub_cancel_left]
  · rw [Memory.read_writeBlock, if_neg (by rw [hlen, chunk]; omega)]
  · rw [exec_readPacket hs, packetStep_answered hfit hr, packetDone_of_rest]
    · rfl
    · intro h0
      have hzero : (s.remain.toNat - chunk s) % 2 ^ 16 = 0 := congrArg BitVec.toNat h0
      have hlt : s.remain.toNat < 2 ^ 16 := s.remain.isLt
      unfold chunk at hzero
      omega
  · rw [exec_readPacket hs, packetStep_answered hfit hr, packetDone_of_none]
    · rfl
    · exact congrArg (BitVec.ofNat 16) (Nat.sub_eq_zero_of_le hk.le)

end Sys2Proof.Machine
end

section
/-! SUPPORT. The transaction of each ENGINE step: a running command issues the one its rule gives it next,
and goes on when it succeeds (R10, R46, R72 to R85, R90 to R96). -/

namespace Sys2Proof.Machine

open Sys2Proof.Expect

/-- The step `o` taken in `s` is the transaction `req`, and a computation after its success that answers
next and issues no other (R10, R46). -/
def Performs (req : Request) (s : State) (o : Out) : Prop :=
  ∃ k, o = transact req s k ∧
    ∀ d, d.length = req.readLen → ∃ t, k d (afterTxn req s) = .next t ∧ t.bus = (afterTxn req s).bus

section
variable {s t : State} {req : Request} {o : Out}

/-- A TransportError ends the step with E_TRANSPORT (R108). -/
theorem Performs.error (h : Performs req s o) (hr : replyTo req s = .error) :
    o = .next (raised .transport (req.addr.setWidth 32) (answered req .error s)) := by
  obtain ⟨k, rfl, -⟩ := h
  rw [transact_error hr, afterTxn_eq_answered hr]
  rfl

/-- A success goes on, with the transaction on record. -/
theorem Performs.ok (h : Performs req s o) {d : List Byte} (hr : replyTo req s = .ok d) :
    ∃ t, o = .next t ∧ t.bus = ⟨req, .ok d⟩ :: s.bus := by
  obtain ⟨k, rfl, hk⟩ := h
  obtain ⟨t, ht, hbus⟩ := hk d (replyTo_length hr)
  rw [afterTxn_eq_answered hr] at hbus
  exact ⟨t, (transact_ok hr).trans ht, hbus⟩

theorem performs_transact {f : List Byte → State → State} (hf : ∀ d u, (f d u).bus = u.bus) :
    Performs req s (transact req s fun d u => .next (f d u)) :=
  ⟨_, rfl, fun d _ => ⟨_, rfl, hf d _⟩⟩

theorem performs_countRead {f : Nat → State → State} (hf : ∀ c u, (f c u).bus = u.bus) :
    Performs (.read s.cfg.fifoCountAddr 2) s (countRead s fun c u => .next (f c u)) :=
  performs_transact (f := fun d u =>
    f (countOf d) { u with fifocount := beWord (d.getD 0 0) (d.getD 1 0) }) fun _ _ => hf _ _

/-- A transaction whose bytes, stored into BUF, fit it. -/
theorem performs_store {i : State → Nat} {g : List Byte → List Byte} {f : State → State}
    (hi : ∀ d, d.length = req.readLen → i (afterTxn req s) + (g d).length ≤ s.cfg.bufSize)
    (hf : ∀ u, (f u).bus = u.bus) :
    Performs req s (transact req s fun d u => bufStore (i u) (g d) u fun v => .next (f v)) :=
  ⟨_, rfl, fun d hd => ⟨_, bufStore_ok (hi d hd), hf _⟩⟩

theorem Performs.accessor {i : Instr} {run : State → Out} (ha : InAccess s)
    (h : Performs req s (run s)) : Performs req s (accessor i run s) := by
  rwa [accessor_busy ha.1 ha.2]

/-! ### The computations after a transaction record no other -/

theorem stepTo_bus (n rlen : Nat) (s : State) : (stepTo n rlen s).bus = s.bus := by
  obtain ⟨-, e⟩ | ⟨-, e⟩ := stepTo_cases n rlen s <;> rw [e] <;> rfl

theorem classify_bus (p c : Nat) (s : State) : (classify p c s).bus = s.bus := by
  obtain ⟨-, e⟩ | ⟨-, -, e⟩ | ⟨-, -, e⟩ | ⟨-, -, e⟩ | ⟨-, -, e⟩ := classify_cases p c s <;>
    rw [e] <;> rfl

theorem afterReset_bus (p c : Nat) (s : State) : (afterReset p c s).bus = s.bus := by
  obtain ⟨-, -, e⟩ | ⟨-, -, e⟩ | ⟨-, -, e⟩ | ⟨-, -, -, e⟩ := afterReset_cases p c s <;> rw [e] <;> rfl

theorem afterDiscard_bus (p c : Nat) (s : State) : (afterDiscard p c s).bus = s.bus := by
  obtain ⟨-, e⟩ | ⟨-, e⟩ | ⟨-, -, e⟩ | ⟨-, -, e⟩ := afterDiscard_cases p c s <;> rw [e] <;> rfl

theorem packetDone_bus (p : Nat) (s : State) : (packetDone p s).bus = s.bus := by
  unfold packetDone; split <;> rfl

/-! ### What the invariant says of a running command -/

section
variable {i : Instr} {p : Data}

theorem countWithin_iff {n : Data} {limit : Nat} :
    countWithin n limit = true ↔ 1 ≤ n.toNat ∧ n.toNat ≤ limit := by
  simp [countWithin]

/-- Outside ACCESS the command that keeps the engine busy is FIFO_GET_PACKET (R20, R21). -/
theorem reader_running (h : ControlOk s) (hb : s.fsm.isBusy = true) (hf : s.fsm ≠ .access) :
    ∃ p, Running (.fifoGetPacket p) s := by
  unfold ControlOk at h
  cases hs : s.fsm with
  | idle | packetReady | timedOut => rw [hs] at hb; cases hb
  | access => exact absurd hs hf
  | polling | waiting | drainResetWait | drainDiscard => rw [hs] at h; exact h
  | drainReset | readPacket =>
    rw [hs] at h
    obtain ⟨p, hp, -⟩ := h
    exact ⟨p, hp⟩

/-- In ACCESS an accessor command has a transaction left and the bytes it takes from BUF (R68, R70). -/
theorem accessor_running (h : ControlOk s) (hf : s.fsm = .access) (hd : decode s.cmd = .ok i) :
    isAccessor i = true ∧ i.wellFormed s.cfg = true ∧ s.seq.toNat < transactions i ∧
      sourceWritten i s.buf = true := by
  rw [ControlOk, hf] at h
  obtain ⟨j, hj, ⟨hdj, hw⟩, hseq, hsrc⟩ := h
  obtain rfl : i = j := by simpa [hdj] using hd.symm
  exact ⟨hj, hw, hseq, hsrc⟩

/-- What is left of the packet fits BUF (R62, R96). -/
theorem packet_fits (h : ControlOk s) (hf : s.fsm = .readPacket) :
    s.idx.toNat + s.remain.toNat ≤ s.cfg.bufSize := by
  rw [ControlOk, hf] at h
  obtain ⟨p, ⟨-, hw⟩, -, hsum⟩ := h
  exact hsum.trans_le (countWithin_iff.1 hw).2

end

/-! ### The transaction of each step -/

theorem regAt_eq (reg : RegAddr) (k : Nat) : regAt reg k = BitVec.ofNat 8 (reg.toNat + k) := by
  rw [regAt, BitVec.ofNat_add, BitVec.ofNat_toNat, BitVec.setWidth_eq]

/-- A block of BUF that is written loads as its bytes (R70). -/
theorem bufLoad_written {i n : Nat} {k : List Byte → Out}
    (h : ∀ j, j < n → (s.buf.read (i + j)).isSome = true) : bufLoad i n s k = k (bufBytes s i n) := by
  obtain ⟨v, hv⟩ := Option.isSome_iff_exists.1 (Memory.readBlock_isSome h)
  have hlen : v.length = n := Memory.readBlock_length hv
  have hbytes : v = bufBytes s i n := List.ext_getElem (by simp [bufBytes, hlen]) fun j hj _ => by
    simp [bufBytes, Memory.readBlock_get hv (hlen ▸ hj), hj]
  simp only [bufLoad, hv, hbytes]

/-- The bytes of BUF a running command still takes are written (R70). -/
theorem source_written {i : Instr} {j n : Nat} (h : sourceWritten i s.buf = true)
    (hn : j + n ≤ sourceBytes i) : ∀ l, l < n → (s.buf.read (j + l)).isSome = true :=
  fun _ hl => sourceWritten_iff.1 h _ (by omega)

theorem readModifyWrite_performs (reg : RegAddr) (f : Byte → Byte) :
    Performs (if s.seq = 0 then .readByte reg else .writeByte reg (f s.tmp)) s
      (readModifyWrite reg f s) := by
  unfold readModifyWrite
  split
  · exact performs_transact fun d u => stepTo_bus _ _ _
  · exact performs_transact fun d u => stepTo_bus _ _ _

/-- The step of an accessor command issues its rule's transaction (R72 to R85). -/
theorem exec_accessor_performs {i : Instr} (hcfg : s.cfg.Legal) (hc : ControlOk s) (ha : InAccess s)
    (hd : decode s.cmd = .ok i) : Performs (nextRequest i s) s (exec i s) := by
  obtain ⟨hi, hw, hseq, hsrc⟩ := accessor_running hc ha.2 hd
  obtain ⟨-, -, -, hblock, -⟩ := hcfg
  unfold exec
  cases i with
  | fifoGetPacket => cases hi
  | readBit | readBits | readByte | writeByte | readWord | writeWord =>
    exact .accessor ha (performs_transact fun d u => stepTo_bus _ _ _)
  | writeBit reg pos x =>
    exact .accessor ha (readModifyWrite_performs reg fun b => setBit b pos x)
  | writeBits reg start len v =>
    exact .accessor ha (readModifyWrite_performs reg fun b => insertField b start len v)
  | readWords reg n =>
    have hn := (countWithin_iff.1 (Bool.and_eq_true_iff.1 hw).1).2
    change s.seq.toNat < n.toNat at hseq
    rw [nextRequest, ← regAt_eq]
    refine .accessor ha (performs_store (g := id) (fun d hd => ?_) fun u => stepTo_bus _ _ _)
    change d.length = 2 at hd
    change 2 * s.seq.toNat + d.length ≤ _
    omega
  | readBytes reg n =>
    have hn := (countWithin_iff.1 (Bool.and_eq_true_iff.1 hw).1).2
    refine .accessor ha (performs_store (g := id) (fun d hd => ?_) fun u => stepTo_bus _ _ _)
    change d.length = n.toNat at hd
    change 0 + d.length ≤ _
    omega
  | readBytesS reg n =>
    have hn := (countWithin_iff.1 (Bool.and_eq_true_iff.1 hw).1).2
    rw [nextRequest, ← regAt_eq]
    exact .accessor ha (performs_store (g := fun d => [d.getD 0 0])
      (fun d _ => show s.seq.toNat < _ from hseq.trans_le hn) fun u => stepTo_bus _ _ _)
  | writeWords reg n =>
    change s.seq.toNat < n.toNat at hseq
    rw [nextRequest, ← regAt_eq]
    refine .accessor ha ?_
    rw [bufLoad_written (source_written hsrc (by change _ ≤ 2 * n.toNat; omega))]
    exact performs_transact fun d u => stepTo_bus _ _ _
  | writeBytes reg n =>
    refine .accessor ha ?_
    rw [bufLoad_written (source_written (n := n.toNat) hsrc (Nat.zero_add _).le)]
    exact performs_transact fun d u => stepTo_bus _ _ _
  | writeBytesS reg n =>
    rw [nextRequest, ← regAt_eq]
    refine .accessor ha ?_
    rw [bufLoad_written (source_written hsrc (Nat.succ_le_of_lt hseq))]
    exact performs_transact fun d u => stepTo_bus _ _ _

/-- The step of FIFO_GET_PACKET issues the transaction of its control state (R90, R93, R95, R96). -/
theorem exec_reader_performs {p : Data} (hc : ControlOk s) (hb : s.status.busy = true)
    (hbusy : s.fsm.isBusy = true) (hf : s.fsm ≠ .access) :
    Performs (nextRequest (.fifoGetPacket p) s) s (exec (.fifoGetPacket p) s) := by
  rw [nextRequest]
  cases hs : s.fsm with
  | idle | packetReady | timedOut => rw [hs] at hbusy; cases hbusy
  | access => exact absurd hs hf
  | polling =>
    rw [exec_counting ⟨hb, hs⟩ (.inl rfl)]
    exact performs_countRead fun c u => classify_bus _ _ _
  | waiting =>
    rw [exec_counting ⟨hb, hs⟩ (.inr rfl)]
    exact performs_countRead fun c u => classify_bus _ _ _
  | drainResetWait =>
    rw [exec_drainResetWait ⟨hb, hs⟩]
    exact performs_countRead fun c u => afterReset_bus _ _ _
  | drainReset =>
    rw [exec_drainReset ⟨hb, hs⟩]
    unfold resetStep
    dsimp only
    split
    · exact performs_transact fun d u => rfl
    · exact performs_transact fun d u => rfl
  | drainDiscard =>
    rw [exec_drainDiscard ⟨hb, hs⟩]
    unfold discardStep
    dsimp only
    split
    · exact performs_transact fun d u => rfl
    · exact performs_countRead fun c u => afterDiscard_bus _ _ _
  | readPacket =>
    rw [exec_readPacket ⟨hb, hs⟩]
    have hfit := packet_fits hc hs
    refine performs_store (i := fun u => u.idx.toNat) (g := id) (fun d hd => ?_) fun u => packetDone_bus _ _
    change d.length = min s.remain.toNat s.cfg.maxBlock at hd
    change s.idx.toNat + d.length ≤ _
    omega

/-- Every ENGINE step of a running command issues the transaction its rule gives it next (R10, R46). -/
theorem exec_performs {i : Instr} (h : Inv s) (hb : s.status.busy = true) (hd : decode s.cmd = .ok i) :
    Performs (nextRequest i s) s (exec i s) := by
  obtain ⟨hcfg, -, ⟨hbusy, -⟩, hc⟩ := h
  rw [hb, eq_comm] at hbusy
  by_cases hf : s.fsm = .access
  · exact exec_accessor_performs hcfg hc ⟨hb, hf⟩ hd
  · obtain ⟨p, hp, -⟩ := reader_running hc hbusy hf
    obtain rfl : i = .fifoGetPacket p := by simpa [hp] using hd.symm
    exact exec_reader_performs hc hb hbusy hf

/-! ### The ENGINE's turn -/

/-- The ENGINE's turn runs one step of the latched command, on the agenda or with an empty one (R10). -/
theorem step_engineTurn {s0 : State} {i : Instr} (hp : s.pfault = false) (hb : s.status.busy = true)
    (hd : decode s.cmd = .ok i) (ht : EngineTurn s s0) : step s = exec i s0 := by
  obtain ⟨rest, ha, rfl⟩ | ⟨ha, rfl⟩ := ht
  · rw [step_cons hp ha]
    exact engineTurn_busy hb hd
  · rw [step_nil hp ha, if_pos hb]
    exact engineTurn_busy hb hd

/-- Taking the turn off the agenda, or moving the clock, touches nothing the invariant speaks of. -/
theorem engineTurn_unchanged {s0 : State} (ht : EngineTurn s s0) (h : Inv s) :
    Inv s0 ∧ s0.status = s.status ∧ s0.cmd = s.cmd ∧ s0.bus = s.bus := by
  obtain ⟨rest, -, rfl⟩ | ⟨-, rfl⟩ := ht <;> exact ⟨h, rfl, rfl, rfl⟩

end

/-! ### The deadline that has elapsed -/

section
variable {s t : State} {p : Data}

/-- A step that computes `g` of its count ends in TIMED_OUT only by the empty result, if `g` does. -/
theorem countRead_timedOut {g : Nat → State → State} (hf : s.fsm ≠ .timedOut)
    (hx : (countRead s fun c u => .next (g c u)) = .next t) (ht : t.fsm = .timedOut)
    (hg : ∀ c u, u.fsm ≠ .timedOut → (g c u).fsm = .timedOut → Expired u ∧ g c u = timeOut u) :
    Expired s ∧ ∃ d, t = timeOut (counted d s) := by
  obtain ⟨d, -, -, rfl⟩ | ⟨-, rfl⟩ | ⟨b, -, rfl⟩ := countRead_pure hx
  · obtain ⟨he, heq⟩ := hg (countOf d) (counted d s) hf ht
    exact ⟨he, d, heq⟩
  · cases ht
  · cases ht

/-- R91: a step of the reader that ends in TIMED_OUT is the empty result after a count, at an elapsed
deadline. -/
theorem exec_timedOut (hb : s.status.busy = true) (hf : s.fsm ≠ .timedOut)
    (hx : exec (.fifoGetPacket p) s = .next t) (ht : t.fsm = .timedOut) :
    Expired s ∧ ∃ d, t = timeOut (counted d s) := by
  have counting (hs : s.fsm = .polling ∨ s.fsm = .waiting) :
      Expired s ∧ ∃ d, t = timeOut (counted d s) := by
    rw [exec_counting ⟨hb, rfl⟩ hs] at hx
    refine countRead_timedOut hf hx ht fun c u hu hto => ?_
    obtain ⟨hlt, he⟩ := (classify_timedOut_iff hu).1 hto
    exact ⟨he, by rw [classify_of_short hlt, if_pos (expired_iff.2 he)]⟩
  obtain hs | hs | hs | ⟨hs, h0⟩ := readsCount_of_timedOut hb hf hx ht
  · exact counting (.inl hs)
  · exact counting (.inr hs)
  · rw [exec_drainResetWait ⟨hb, hs⟩] at hx
    refine countRead_timedOut hf hx ht fun c u hu hto => ?_
    obtain ⟨hc, he⟩ := (afterReset_timedOut_iff hu).1 hto
    refine ⟨he, ?_⟩
    by_cases hz : c = 0
    · rw [afterReset_zero hz, if_pos (expired_iff.2 he)]
    · rw [afterReset_of_other hz (hc.resolve_left hz), if_pos (expired_iff.2 he)]
  · rw [exec_drainDiscard ⟨hb, hs⟩, discardStep_recount h0] at hx
    refine countRead_timedOut hf hx ht fun c u hu hto => ?_
    obtain ⟨hlt, he⟩ := (afterDiscard_timedOut_iff hu).1 hto
    exact ⟨he, by rw [afterDiscard_of_short hlt, if_pos (expired_iff.2 he)]⟩

end

end Sys2Proof.Machine
end

section
/-! PROOFS. The statements of 60_exceptions.md: the order of the checks of issue, the TransportError and the
deadline that is no error. -/

namespace Sys2Proof.Machine

open Sys2Proof.Expect

/-- Settles O44: the turn's step performs the transaction of `nextRequest`, and a transaction's error is
E_TRANSPORT. -/
theorem transportErrorEndsTheCommand : Obligations.TransportErrorEndsTheCommand := by
  rintro s s0 i _ hinv hp hb hd ht rfl
  obtain ⟨hinv0, hstatus, hcmd, hbus⟩ := engineTurn_unchanged ht hinv
  have h : Performs (nextRequest i s0) s0 (exec i s0) :=
    exec_performs hinv0 (hstatus ▸ hb) (hcmd ▸ hd)
  rw [step_engineTurn hp hb hd ht, ← hbus]
  exact ⟨h.error, fun d => h.ok⟩

/-- Settles O8: the word's own check, then the four checks of the command it decodes to. -/
theorem issueChecksRunInOrder : Obligations.IssueChecksRunInOrder := by
  intro s w rest hp hb ha
  refine ⟨step_issue_illegal hp hb ha, fun i hd => ?_⟩
  have hidle : (latch w { s with agenda := rest }).status.busy = false := hb
  rw [step_issue_legal hp ha hb hd]
  exact ⟨exec_issue_raises_field hidle, exec_issue_raises_length hidle, exec_issue_raises_addr hidle,
    exec_issue_raises_range hidle, exec_issue_passes hidle⟩

/-- Settles O40: only the empty result ends in TIMED_OUT, and it writes neither ERR nor BUF. -/
theorem timeoutIsNoError : Obligations.TimeoutIsNoError := by
  intro p s t hinv hb _ hx ht
  obtain ⟨-, -, hstatus, -⟩ := hinv
  obtain ⟨-, herr, -⟩ := unfinished_of_statusOk hstatus hb
  have hf : s.fsm ≠ .timedOut := Fsm.ne_timedOut_of_isBusy (hstatus.1 ▸ hb)
  obtain ⟨he, d, rfl⟩ := exec_timedOut hb hf hx ht
  exact ⟨he, rfl, rfl, herr, rfl, rfl, rfl⟩

end Sys2Proof.Machine
end

section
/-! SUPPORT. What the decoder's demands ask, and a field as its low bits where the others are zero (R58, R60). -/

namespace Sys2Proof

theorem demand_eq_ok {ok : Bool} {r : Reject} {k : Except Reject Instr} {i : Instr} :
    demand ok r k = .ok i ↔ ok = true ∧ k = .ok i := by
  cases ok <;> simp [demand]

theorem demandNoField_eq_ok {w : Cmd} {k : Except Reject Instr} {i : Instr} :
    demandNoField w k = .ok i ↔ fieldLen w = 0 ∧ fieldStart w = 0 ∧ k = .ok i := by
  simp only [demandNoField, demand_eq_ok, beq_iff_eq]

/-- A value whose bits from `k` up are zero is below `2 ^ k`. -/
theorem toNat_lt_of_highBits {n : Nat} (k : Nat) (x : BitVec n) (h : x.extractLsb' k (n - k) = 0) :
    x.toNat < 2 ^ k := by
  refine Nat.lt_pow_two_of_testBit _ fun j hj => ?_
  have hbit := congrArg (fun y => BitVec.getLsbD y (j - k)) h
  by_cases hn : j < n
  · simpa [show j - k < n - k by omega, show k + (j - k) = j by omega, BitVec.getLsbD] using hbit
  · exact BitVec.getLsbD_of_ge x j (by omega)

/-- WRITE_BYTE's byte gives its DATA field back (R60 e). -/
theorem byteValue_data {v : Data} (h : v.extractLsb' 8 24 = 0) : (v.extractLsb' 0 8).setWidth 32 = v := by
  have hlt := toNat_lt_of_highBits 8 v h
  refine BitVec.eq_of_toNat_eq ?_
  simp only [BitVec.toNat_setWidth, BitVec.extractLsb'_toNat, Nat.shiftRight_zero]
  omega

/-- WRITE_BIT's value gives its DATA field back (R60 d). -/
theorem bitValue_data {v : Data} (h : v.extractLsb' 1 31 = 0) : (if v.getLsbD 0 then 1 else 0) = v := by
  have hlt := toNat_lt_of_highBits 1 v h
  have hbit : v.getLsbD 0 = decide (v.toNat % 2 = 1) := Nat.testBit_zero _
  refine BitVec.eq_of_toNat_eq ?_
  rw [hbit]
  interval_cases hv : v.toNat <;> rfl

end Sys2Proof
end

section
/-! PROOFS. The statements of 30_encoding.md about the round trip. -/

namespace Sys2Proof

/-- Settles O2: the fields of the assembled word pass every demand of its OP, and the two narrow DATA
fields are widened without loss. -/
theorem decodeOfEncodeIsTheCommand : Obligations.DecodeOfEncodeIsTheCommand := by
  intro i
  cases i with
  | writeBit reg pos value =>
    cases value <;> simp [encode, decode, demand]
  | writeByte reg byte =>
    have hhigh : (byte.setWidth 32).extractLsb' 8 24 = 0 := by
      ext k hk; simp
    have hlow : (byte.setWidth 32).extractLsb' 0 8 = byte := by
      have hlt : byte.toNat < 256 := byte.isLt
      refine BitVec.eq_of_toNat_eq ?_
      simp only [BitVec.extractLsb'_toNat, BitVec.toNat_setWidth, Nat.shiftRight_zero]
      omega
    simp [encode, decode, demand, demandNoField, hhigh, hlow]
  | _ => simp [encode, decode, demand, demandNoField]

/-- Settles O3: by the OP of the word, whose other fields are the command's operands or were demanded to
be zero. -/
theorem encodeOfDecodeIsTheWord : Obligations.EncodeOfDecodeIsTheWord := by
  intro w i h
  obtain ⟨hr, h⟩ := demand_eq_ok.1 h
  conv_rhs => rw [← assemble_fields w (beq_iff_eq.1 hr)]
  obtain ⟨k, hk, hop⟩ : ∃ k < 16, fieldOp w = BitVec.ofNat 4 k := ⟨_, (fieldOp w).isLt, by simp⟩
  interval_cases k <;>
    simp only [hop, BitVec.toNat_ofNat, Nat.reducePow, Nat.reduceMod, demand_eq_ok, demandNoField_eq_ok,
      beq_iff_eq, Except.ok.injEq, reduceCtorEq] at h
  · obtain ⟨hlen, hdata, rfl⟩ := h
    rw [encode, hop, hlen, hdata]; rfl
  · obtain ⟨hlen, hdata, rfl⟩ := h
    rw [encode, hop, hlen, bitValue_data hdata]; rfl
  · obtain ⟨hdata, rfl⟩ := h
    rw [encode, hop, hdata]; rfl
  · subst h
    rw [encode, hop]; rfl
  · obtain ⟨hlen, hstart, hdata, rfl⟩ := h
    rw [encode, hop, hlen, hstart, hdata]; rfl
  · obtain ⟨hlen, hstart, hdata, rfl⟩ := h
    rw [encode, hop, hlen, hstart, byteValue_data hdata]; rfl
  · obtain ⟨hlen, hstart, hdata, rfl⟩ := h
    rw [encode, hop, hlen, hstart, hdata]; rfl
  -- OP 8 to 14: the whole of DATA is an operand.
  iterate 7
    · obtain ⟨hlen, hstart, rfl⟩ := h
      rw [encode, hop, hlen, hstart]; rfl
  · obtain ⟨hreg, hlen, hstart, rfl⟩ := h
    rw [encode, hop, hreg, hlen, hstart]; rfl

end Sys2Proof
end

section
/-! SUPPORT. The answered step of every accessor command as a state equation (R68, R72 to R85). -/

namespace Sys2Proof.Machine

open Sys2Proof.Expect

section
variable {s : State} {reg a : RegAddr} {start : BitVec 3} {len : BitVec 4} {b : Byte} {v n : Data}

/-- READ_BITS's field as a number (R74). -/
theorem extractField_setWidth (hs : len.toNat ≤ start.toNat + 1) (b : Byte) :
    (extractField b start len).setWidth 32 =
      BitVec.ofNat 32 (b.toNat / 2 ^ (start.toNat + 1 - len.toNat) % 2 ^ len.toNat) := by
  refine BitVec.eq_of_getLsbD_eq fun k hk => ?_
  have hin : fieldLsb start len ≤ fieldLsb start len + k ∧ fieldLsb start len + k ≤ start.toNat ↔
      k < len.toNat := by unfold fieldLsb; omega
  have hbit : b.getLsbD (fieldLsb start len + k) = b.toNat.testBit (fieldLsb start len + k) := rfl
  rw [BitVec.getLsbD_setWidth, extractField, BitVec.getLsbD_ushiftRight, BitVec.getLsbD_and,
    fieldMask_getLsbD hs, hbit, BitVec.getLsbD_ofNat, Nat.testBit_mod_two_pow, Nat.testBit_div_two_pow,
    decide_eq_decide.2 hin, Nat.add_comm k, Bool.and_comm (Nat.testBit _ _)]
  rfl

/-- The end of an accessor's step in the statements' words (R68). -/
theorem stepTo_eq_afterTransaction {k m rlen : Nat} (hf : s.fsm = .access) (hk : s.seq.toNat = k)
    (hm : k < m) : stepTo m rlen s = afterTransaction k m rlen s := by
  subst hk
  by_cases hlast : s.seq.toNat + 1 = m
  · rw [stepTo_last hf hlast.ge, afterTransaction, if_pos hlast]
  · rw [stepTo, if_neg (by omega), afterTransaction, if_neg hlast]; rfl

/-- The read step of a read-modify-write, answered: the byte goes to TMP (R73, R75). -/
theorem readModifyWrite_read_answered {f : Byte → Byte} (hq : s.seq = 0)
    (hr : replyTo (.readByte reg) s = .ok [b]) : readModifyWrite reg f s =
      .next { answered (.readByte reg) (.ok [b]) s with seq := 1, tmp := b } := by
  have h0 : s.seq.toNat + 1 = 1 := by rw [hq]; rfl
  rw [readModifyWrite, if_pos hq, memReadByte, transact_ok hr, afterTxn_eq_answered hr, stepTo, if_neg]
  · simp [advance, answered, hq]
  · exact fun h => absurd (h.trans h0.le) (by decide)

/-- A store of two bytes is the two byte stores. -/
theorem Memory.read_writeBlock_pair (m : Memory) (i : Nat) (hi lo : Byte) :
    (m.writeBlock i [hi, lo]).read i = some hi ∧ (m.writeBlock i [hi, lo]).read (i + 1) = some lo ∧
      ∀ j, j ≠ i → j ≠ i + 1 → (m.writeBlock i [hi, lo]).read j = m.read j := by
  refine ⟨by simp [Memory.read_writeBlock], by simp [Memory.read_writeBlock], fun j h0 h1 => ?_⟩
  rw [Memory.read_writeBlock, if_neg (by simp only [List.length_cons, List.length_nil]; omega)]

/-- A load that meets an unwritten byte faults (R33, R70). -/
theorem bufLoad_unwritten {i n j : Nat} {k : List Byte → Out} (hj : j < n) (h : s.buf.read (i + j) = none) :
    bufLoad i n s k = .fault .unwrittenBuf := by
  unfold bufLoad
  split
  · next w hw =>
    have hlen := Memory.readBlock_length hw
    rw [Memory.readBlock_get hw hj, List.getElem?_eq_none_iff] at h
    omega
  · rfl

/-- A load of written bytes gives them in order. -/
theorem bufLoad_bytes {i n : Nat} {k : List Byte → Out} {w : List Byte} (hlen : w.length = n)
    (h : ∀ j, j < n → s.buf.read (i + j) = w[j]?) : bufLoad i n s k = k w := by
  have hsome j (hj : j < n) : (s.buf.read (i + j)).isSome = true := by
    rw [h j hj, List.getElem?_eq_getElem (hlen ▸ hj)]; rfl
  obtain ⟨w', hw⟩ := Option.isSome_iff_exists.1 (Memory.readBlock_isSome hsome)
  have hlen' := Memory.readBlock_length hw
  have heq : w' = w := List.ext_getElem? fun j => by
    by_cases hj : j < n
    · rw [← Memory.readBlock_get hw hj, h j hj]
    · rw [List.getElem?_eq_none (by omega), List.getElem?_eq_none (by omega)]
  simp only [bufLoad, hw, heq]

/-- The block read of READ_BYTES, answered (R82). -/
theorem exec_readBytes_answered {d : List Byte} (ha : InAccess s) (hn : n.toNat ≤ s.cfg.bufSize)
    (hr : replyTo (.read reg n.toNat) s = .ok d) : exec (.readBytes reg n) s =
      .next (completed n.toNat { answered (.read reg n.toNat) (.ok d) s with
        seq := s.seq + 1, buf := s.buf.writeBlock 0 d }) := by
  have hlen : d.length = n.toNat := replyTo_length hr
  rw [exec, execReadBytes, accessor_busy ha.1 ha.2, memRead, transact_ok hr, afterTxn_eq_answered hr,
    bufStore_ok (by change 0 + d.length ≤ s.cfg.bufSize; omega)]
  exact congrArg _ (stepTo_last ha.2 (Nat.le_add_left _ _))

/-- A byte read of READ_BYTES_S, answered (R84). -/
theorem exec_readBytesS_answered (ha : InAccess s) (hk : s.seq.toNat < n.toNat)
    (hn : n.toNat ≤ s.cfg.bufSize)
    (hr : replyTo (.readByte (BitVec.ofNat 8 (reg.toNat + s.seq.toNat))) s = .ok [b]) :
    exec (.readBytesS reg n) s = .next (afterTransaction s.seq.toNat n.toNat n.toNat
      { answered (.readByte (BitVec.ofNat 8 (reg.toNat + s.seq.toNat))) (.ok [b]) s with
        buf := s.buf.write s.seq.toNat b }) := by
  rw [exec, execReadBytesS, accessor_busy ha.1 ha.2, memReadByte, regAt_eq, transact_ok hr,
    afterTxn_eq_answered hr, bufStore_ok (by change s.seq.toNat + 1 ≤ s.cfg.bufSize; omega)]
  exact congrArg _ (stepTo_eq_afterTransaction ha.2 rfl hk)

end

end Sys2Proof.Machine
end

section
/-! PROOFS. The statements of 40_accessor.md about one transaction of each command. -/

namespace Sys2Proof.Machine

open Sys2Proof.Expect

/-- Settles O17: the answered read step. -/
theorem readBitResult : Obligations.ReadBitResult :=
  fun _ _ _ _ ha hr => exec_readBit_answered ha hr

/-- Settles O18: the two halves of the read-modify-write. -/
theorem writeBitReadsThenWrites : Obligations.WriteBitReadsThenWrites := by
  intro reg pos x s ha
  refine ⟨fun b hq hr => ?_, ?_⟩
  · rw [exec, execWriteBit, accessor_busy ha.1 ha.2, readModifyWrite_read_answered hq hr]
  · rintro _ rfl hq hr
    exact exec_writeBit_answered ha hq hr

/-- Settles O19: the answered read step, its field as a number. -/
theorem readBitsResult : Obligations.ReadBitsResult := by
  intro reg start len s b ha _ hs hr
  rw [exec_readBits_answered ha hr, extractField_setWidth hs]

/-- Settles O20: the two halves of the read-modify-write. -/
theorem writeBitsReadsThenWrites : Obligations.WriteBitsReadsThenWrites := by
  intro reg start len v s ha
  refine ⟨fun b hq hr => ?_, ?_⟩
  · rw [exec, execWriteBits, accessor_busy ha.1 ha.2, readModifyWrite_read_answered hq hr]
  · rintro _ _ rfl rfl hq hr
    exact exec_writeBits_answered ha hq hr

/-- Settles O22: each is its one answered transaction. -/
theorem byteTransferResults : Obligations.ByteTransferResults := by
  intro reg b s ha
  refine ⟨fun hr => ?_, fun hr => ?_⟩
  · rw [exec, execReadByte, accessor_busy ha.1 ha.2, memReadByte, transact_ok hr, afterTxn_eq_answered hr]
    exact congrArg _ (stepTo_last ha.2 (Nat.le_add_left _ _))
  · rw [exec, execWriteByte, accessor_busy ha.1 ha.2, memWriteByte, transact_ok hr, afterTxn_eq_answered hr]
    exact congrArg _ (stepTo_last ha.2 (Nat.le_add_left _ _))

/-- Settles O23: each is its one answered block; RESULT is the big-endian word, widened. -/
theorem wordTransferResults : Obligations.WordTransferResults := by
  intro reg v hi lo w s ha
  refine ⟨fun hr => ?_, ?_⟩
  · have hword : (beWord hi lo).setWidth 32 = BitVec.ofNat 32 (hi.toNat * 256 + lo.toNat) := by
      rw [← beWord_toNat, BitVec.ofNat_toNat]
    rw [exec, execReadWord, accessor_busy ha.1 ha.2, memRead, transact_ok hr, afterTxn_eq_answered hr,
      ← hword]
    exact congrArg _ (stepTo_last ha.2 (Nat.le_add_left _ _))
  · rintro rfl hr
    rw [exec, execWriteWord, accessor_busy ha.1 ha.2, memWrite, beBytes, transact_ok hr,
      afterTxn_eq_answered hr]
    exact congrArg _ (stepTo_last ha.2 (Nat.le_add_left _ _))

/-- Settles O24: the block read at word SEQ, stored at its two bytes. -/
theorem readWordsStoresOneWordAStep : Obligations.ReadWordsStoresOneWordAStep := by
  rintro reg n s k a hi lo ha rfl hk hn rfl hr
  obtain ⟨hhi, hlo, hother⟩ := s.buf.read_writeBlock_pair (2 * s.seq.toNat) hi lo
  refine ⟨_, hhi, hlo, hother, ?_⟩
  rw [exec, execReadWords, accessor_busy ha.1 ha.2, memRead, regAt_eq, transact_ok hr,
    afterTxn_eq_answered hr, bufStore_ok (by change 2 * s.seq.toNat + 2 ≤ s.cfg.bufSize; omega)]
  exact congrArg _ (stepTo_eq_afterTransaction ha.2 rfl hk)

/-- Settles O25: the two bytes of word SEQ load, or an unwritten one faults. -/
theorem writeWordsSendsOneWordAStep : Obligations.WriteWordsSendsOneWordAStep := by
  rintro reg n s k a ha rfl hk rfl
  rw [exec, execWriteWords, accessor_busy ha.1 ha.2]
  refine ⟨fun hi lo hhi hlo hr => ?_, ?_⟩
  · have hbytes j (hj : j < 2) : s.buf.read (2 * s.seq.toNat + j) = [hi, lo][j]? := by
      interval_cases j
      · exact hhi
      · exact hlo
    rw [bufLoad_bytes (n := 2) rfl hbytes, memWrite, regAt_eq, transact_ok hr, afterTxn_eq_answered hr]
    exact congrArg _ (stepTo_eq_afterTransaction ha.2 rfl hk)
  · rintro (h | h)
    · exact bufLoad_unwritten (j := 0) (by decide) h
    · exact bufLoad_unwritten (j := 1) (by decide) h

/-- Settles O26: the block read, stored from BUF[0] on. -/
theorem readBytesFillsTheBuffer : Obligations.ReadBytesFillsTheBuffer := by
  intro reg n s d ha hn hr
  have hlen : d.length = n.toNat := replyTo_length hr
  refine ⟨s.buf.writeBlock 0 d, fun j hj => ?_, fun j hj => ?_, ?_⟩
  · rw [Memory.read_writeBlock, if_pos (by omega)]; rfl
  · rw [Memory.read_writeBlock, if_neg (by omega)]
  · exact exec_readBytes_answered ha hn hr

/-- Settles O27: the bytes load from BUF[0] on, or an unwritten one faults. -/
theorem writeBytesSendsTheBuffer : Obligations.WriteBytesSendsTheBuffer := by
  intro reg n s ha
  rw [exec, execWriteBytes, accessor_busy ha.1 ha.2]
  refine ⟨fun w hlen hw hr => ?_, ?_⟩
  · rw [bufLoad_bytes hlen (by simpa using hw), memWrite, transact_ok hr, afterTxn_eq_answered hr]
    exact congrArg _ (stepTo_last ha.2 (Nat.le_add_left _ _))
  · rintro ⟨j, hj, h⟩
    exact bufLoad_unwritten hj (by rwa [Nat.zero_add])

/-- Settles O28: the byte read at SEQ, stored there. -/
theorem readBytesSStoresOneByteAStep : Obligations.ReadBytesSStoresOneByteAStep := by
  rintro reg n s k a b ha rfl hk hn rfl hr
  exact ⟨s.buf.write s.seq.toNat b, Memory.read_write_same _ _ _,
    fun j hj => Memory.read_write_other _ _ hj.symm, exec_readBytesS_answered ha hk hn hr⟩

/-- Settles O29: the byte at SEQ loads, or faults unwritten. -/
theorem writeBytesSSendsOneByteAStep : Obligations.WriteBytesSSendsOneByteAStep := by
  rintro reg n s k a ha rfl hk rfl
  rw [exec, execWriteBytesS, accessor_busy ha.1 ha.2]
  refine ⟨fun b hb hr => ?_, fun h => bufLoad_unwritten (j := 0) Nat.one_pos h⟩
  have hbytes j (hj : j < 1) : s.buf.read (s.seq.toNat + j) = [b][j]? := by
    obtain rfl := Nat.lt_one_iff.1 hj
    exact hb
  rw [bufLoad_bytes (n := 1) rfl hbytes, memWriteByte, regAt_eq, List.getD_cons_zero, transact_ok hr,
    afterTxn_eq_answered hr]
  exact congrArg _ (stepTo_eq_afterTransaction ha.2 rfl hk)

end Sys2Proof.Machine
end

section
/-! SUPPORT. The host port's remaining answers, the fault of an issue over unwritten bytes, and the bits of
the STATUS word (R22, R23, R30, R33). -/

namespace Sys2Proof.Machine

open Sys2Proof.Expect

variable {s : State}

theorem regValue_isSome {n : Nat} (h : n ≤ 4) (s : State) : ∃ v, regValue n s = some v := by
  interval_cases n <;> exact ⟨_, rfl⟩

theorem hostWriteReg_some {n : Nat} {v : Data} (h : regValue n s = some v) :
    hostWriteReg n s = .next s := by
  simp [hostWriteReg, h]

theorem hostWriteBuf_ok {i : Nat} {b : Byte} (hb : s.status.busy = false) (hi : i < s.cfg.bufSize) :
    hostWriteBuf i b s = .next { s with buf := s.buf.write i b } := if_pos ⟨hb, hi⟩

/-- An issue that passes its checks over an unwritten byte faults (R33, D37). -/
theorem exec_issue_unwritten {i : Instr} (hb : s.status.busy = false) (hw : i.wellFormed s.cfg = true)
    (hs : ¬SourceWritten i s) : exec i s = .fault .unwrittenBuf := by
  have hc : issueCheck s.cfg i = none := (issueCheck_eq_none _ _).2 hw
  have hm : sourceWritten i s.buf = false := by
    rwa [← sourceWritten_iff_SourceWritten, Bool.not_eq_true] at hs
  rw [exec_issue i hb]
  simp [issueChecked, hc, hm]

theorem not_sourceWritten {i : Instr} {j : Nat} (hj : j < sourceBytes i) (h : s.buf.read j = none) :
    ¬SourceWritten i s := by
  intro hs
  have hsome := sourceWritten_iff.1 (sourceWritten_iff_SourceWritten.2 hs) j hj
  rw [h] at hsome
  cases hsome

/-- Every bit of the STATUS word (R23). -/
theorem getLsbD_statusWord (s : State) (i : Nat) : s.statusWord.getLsbD i =
    if i < 1 then s.status.busy else if i < 2 then s.status.done
    else if i < 6 then s.status.err.code.getLsbD (i - 2) else if i < 10 then s.fsm.code.getLsbD (i - 6)
    else if i < 11 then s.status.ovf else if i < 12 then s.status.drained
    else if i < 13 then s.status.timeout else if i < 14 then s.status.pkt
    else if i < 16 then false else s.status.rlen.getLsbD (i - 16) := by
  have one (b : Bool) {k : Nat} (h : i - k < 1) : (BitVec.ofBool b).getLsbD (i - k) = b := by
    simp [Nat.lt_one_iff.1 h]
  rw [State.statusWord]
  iterate 9 rw [BitVec.getLsbD_append]
  simp only [BitVec.getLsbD_zero, Nat.sub_sub, Nat.reduceAdd]
  refine ite_congr rfl (one _ (k := 0)) fun _ => ?_
  refine ite_congr (propext (by omega)) (fun _ => one _ (by omega)) fun _ => ?_
  refine ite_congr (propext (by omega)) (fun _ => rfl) fun _ => ?_
  refine ite_congr (propext (by omega)) (fun _ => rfl) fun _ => ?_
  iterate 4 refine ite_congr (propext (by omega)) (fun _ => one _ (by omega)) fun _ => ?_
  exact ite_congr (propext (by omega)) (fun _ => rfl) fun _ => rfl

/-- STATUS reads as 0 after the engine's reset (R32). -/
theorem resetEngine_statusWord (s : State) : (resetEngine s).statusWord = 0 :=
  show State.reset.statusWord = 0 by decide

end Sys2Proof.Machine
end

section
/-! PROOFS. The statements about the step's dispatch, the host port, the STATUS word and reset. -/

namespace Sys2Proof.Machine

open Sys2Proof.Expect

/-- Settles O5: the placed word is the agenda's next entry. -/
theorem issueStepRunsTheDecodedCommand : Obligations.IssueStepRunsTheDecodedCommand := by
  intro s w i hp hb hd
  have hw : BitVec.ofNat 64 (w.toNat % 2 ^ 64) = w := by
    rw [Nat.mod_eq_of_lt w.isLt, BitVec.ofNat_toNat, BitVec.setWidth_eq]
  rw [State.withFetchWord, hw]
  exact step_issue_legal (s := { s with agenda := .issue w :: s.agenda }) hp rfl hb hd

/-- Settles O6: both ways the ENGINE's turn comes. -/
theorem engineStepRunsTheLatchedCommand : Obligations.EngineStepRunsTheLatchedCommand := by
  intro s i hp hb hd
  exact ⟨fun rest ha => step_engineTurn hp hb hd (.inl ⟨rest, ha, rfl⟩),
    fun ha => step_engineTurn hp hb hd (.inr ⟨ha, rfl⟩)⟩

/-- Settles O14: an unwritten source byte stops the issue. -/
theorem issueOverUnwrittenBytesFaults : Obligations.IssueOverUnwrittenBytesFaults := by
  refine ⟨fun reg n s j hb h => ⟨fun hj hw => ?_, fun hj hw => ?_, fun hj hw => ?_⟩, ?_⟩
  · exact exec_issue_unwritten hb hw (not_sourceWritten (i := .writeWords reg n) hj h)
  · exact exec_issue_unwritten hb hw (not_sourceWritten (i := .writeBytes reg n) hj h)
  · exact exec_issue_unwritten hb hw (not_sourceWritten (i := .writeBytesS reg n) hj h)
  · intro s w rest i hp hb ha hd hw hs
    rw [step_issue_legal hp ha hb hd]
    exact exec_issue_unwritten (s := latch w { s with agenda := rest }) hb hw hs

/-- Settles O15: a packet size in range starts the reader. -/
theorem readerIssueCapturesTheDeadline : Obligations.ReaderIssueCapturesTheDeadline :=
  fun p _ hb h1 hn => exec_issue_begins (i := .fifoGetPacket p) hb (countWithin_iff.2 ⟨h1, hn⟩) trivial

/-- Settles O46: the store, and the breach otherwise. -/
theorem hostWriteBufStoresOneByte : Obligations.HostWriteBufStoresOneByte := by
  intro s rest i b hp ha
  rw [step_cons hp ha]
  refine ⟨fun hb hi => ⟨s.buf.write i b, Memory.read_write_same _ _ _,
    fun j hj => Memory.read_write_other _ _ hj.symm, hostWriteBuf_ok hb hi⟩, fun hn => ?_⟩
  exact hostWriteBuf_breach ((not_and_or.1 hn).imp Bool.eq_true_of_not_eq_false Nat.not_lt.1)

/-- Settles O48: the five numbers name a register. -/
theorem hostWriteOfARegisterChangesNothing : Obligations.HostWriteOfARegisterChangesNothing := by
  intro s rest n v hp ha hn
  obtain ⟨_, hreg⟩ := regValue_isSome hn { s with agenda := rest }
  rw [step_cons hp ha]
  exact hostWriteReg_some hreg

/-- Settles O49: each field by its bits. -/
theorem statusWordFields : Obligations.StatusWordFields := by
  intro s
  have field (k n : Nat) (v : BitVec n)
      (h : ∀ i, i < n → s.statusWord.getLsbD (k + i) = v.getLsbD i) :
      s.statusWord.extractLsb' k n = v :=
    BitVec.eq_of_getLsbD_eq fun i hi => by rw [BitVec.getLsbD_extractLsb', decide_eq_true hi, h i hi]; rfl
  have herr : s.statusWord.extractLsb' 2 4 = s.status.err.code := field 2 4 _ fun i hi => by
    rw [getLsbD_statusWord, if_neg (by omega), if_neg (by omega), if_pos (by omega),
      Nat.add_sub_cancel_left]
  have hfsm : s.statusWord.extractLsb' 6 4 = s.fsm.code := field 6 4 _ fun i hi => by
    rw [getLsbD_statusWord, if_neg (by omega), if_neg (by omega), if_neg (by omega), if_pos (by omega),
      Nat.add_sub_cancel_left]
  refine ⟨getLsbD_statusWord s 0, getLsbD_statusWord s 1, herr.trans ?_, hfsm.trans ?_,
    getLsbD_statusWord s 10, getLsbD_statusWord s 11, getLsbD_statusWord s 12, getLsbD_statusWord s 13,
    field 14 2 _ fun i hi => ?_, field 16 16 _ fun i hi => ?_⟩
  · cases s.status.err <;> rfl
  · cases s.fsm <;> rfl
  · rw [getLsbD_statusWord]
    iterate 8 rw [if_neg (by omega)]
    rw [if_pos (by omega), BitVec.getLsbD_zero]
  · rw [getLsbD_statusWord]
    iterate 9 rw [if_neg (by omega)]
    rw [Nat.add_sub_cancel_left]

/-- Settles O50: the reset state field by field. -/
theorem resetInputClearsTheEngine : Obligations.ResetInputClearsTheEngine := by
  intro s rest hp ha
  refine ⟨resetEngine { s with agenda := rest }, step_cons hp ha, ?_⟩
  exact ⟨rfl, resetEngine_statusWord _, rfl, rfl, rfl, fun _ => rfl, rfl, rfl, rfl, rfl, rfl⟩

/-- Settles O58: the reset state is idle, with no byte written. -/
theorem resetMeetsTheInvariant : Obligations.ResetMeetsTheInvariant :=
  ⟨by decide, ⟨rfl, rfl⟩, by unfold StatusOk; decide, trivial⟩

end Sys2Proof.Machine
end

section
/-! SUPPORT. Everything one step of an accessor command writes, said once for all fourteen (R68, R71). -/

namespace Sys2Proof.Machine

open Sys2Proof.Expect

/-- The three commands that store what they read into BUF (R71). -/
def FillsBuffer (i : Instr) : Prop :=
  ∃ reg n, i = .readWords reg n ∨ i = .readBytes reg n ∨ i = .readBytesS reg n

/-- The two read-modify-write commands, which keep the byte read in TMP (R71). -/
def KeepsByte (i : Instr) : Prop :=
  (∃ reg pos x, i = .writeBit reg pos x) ∨ ∃ reg start len v, i = .writeBits reg start len v

/-- What the computation after an accessor command's transaction writes before SEQ moves on: RESULT, and of
BUF and TMP what the command may (R71). -/
structure Wrote (i : Instr) (s u : State) : Prop where
  frame : u = { s with buf := u.buf, tmp := u.tmp, result := u.result }
  buf : u.buf = s.buf ∨ FillsBuffer i ∧
    ∃ j v, j + v.length ≤ s.cfg.bufSize ∧ u.buf = s.buf.writeBlock j v
  tmp : u.tmp = s.tmp ∨ KeepsByte i

section
variable {i : Instr} {s t u : State} {req : Request}

theorem Wrote.nothing : Wrote i s s := ⟨rfl, .inl rfl, .inl rfl⟩

theorem Wrote.ofResult (v : Data) : Wrote i s { s with result := v } := ⟨rfl, .inl rfl, .inl rfl⟩

theorem Wrote.ofTmp (h : KeepsByte i) (b : Byte) : Wrote i s { s with tmp := b } :=
  ⟨rfl, .inl rfl, .inr h⟩

theorem Wrote.ofStore (h : FillsBuffer i) {j : Nat} {v : List Byte} (hj : j + v.length ≤ s.cfg.bufSize) :
    Wrote i s { s with buf := s.buf.writeBlock j v } :=
  ⟨rfl, .inr ⟨h, j, v, hj, rfl⟩, .inl rfl⟩

/-- The three ways a step that issues `req` ends: a state of which `after` holds, E_TRANSPORT, or the
engine's reset (R108, R120). -/
def Exchanged (req : Request) (after : State → Prop) (s t : State) : Prop :=
  (∃ d, replyTo req s = .ok d ∧ after t) ∨
  (replyTo req s = .error ∧ t = raise .transport (req.addr.setWidth 32) (afterTxn req s)) ∨
  (∃ b, replyTo req s = .cutByReset b ∧ t = resetEngine (afterTxn req s))

theorem Transacted.exchanged {next : List Byte → State} {after : State → Prop}
    (h : Transacted req next s t) (hn : ∀ d, replyTo req s = .ok d → after (next d)) :
    Exchanged req after s t := by
  obtain ⟨d, hd, -, rfl⟩ | h | h := h
  · exact .inl ⟨d, hd, hn d hd⟩
  · exact .inr (.inl h)
  · exact .inr (.inr h)

/-- A step of an accessor command: its transaction, what it writes, then SEQ moves on and the last one
completes. -/
def Accessed (i : Instr) (s t : State) : Prop :=
  ∃ req, Exchanged req
    (fun t => ∃ rlen u, Wrote i (afterTxn req s) u ∧ t = stepTo (transactions i) rlen u) s t

theorem Transacted.accessed {rlen : Nat} {f : List Byte → State}
    (h : Transacted req (fun d => stepTo (transactions i) rlen (f d)) s t)
    (hw : ∀ d, replyTo req s = .ok d → Wrote i (afterTxn req s) (f d)) : Accessed i s t :=
  ⟨req, h.exchanged fun d hd => ⟨rlen, f d, hw d hd, rfl⟩⟩

theorem readModifyWrite_accessed {reg : RegAddr} {f : Byte → Byte} (hi : KeepsByte i)
    (h2 : transactions i = 2) (h : readModifyWrite reg f s = .next t) : Accessed i s t := by
  obtain ⟨-, h⟩ | ⟨-, h⟩ := readModifyWrite_next h <;> rw [← h2] at h
  · exact h.accessed fun d _ => .ofTmp hi _
  · exact h.accessed fun d _ => .ofResult _

/-- Everything one ENGINE step of an accessor command can do (R68, R71 to R85). -/
theorem exec_accessed (hi : isAccessor i = true) (hb : s.status.busy = true) (h : exec i s = .next t) :
    s.fsm = .access ∧ Accessed i s t := by
  cases i with
  | readBit =>
    obtain ⟨hf, h⟩ := execReadBit_busy hb h
    exact ⟨hf, Transacted.accessed h fun d _ => .ofResult _⟩
  | writeBit =>
    obtain ⟨hf, h⟩ := execWriteBit_busy hb h
    exact ⟨hf, readModifyWrite_accessed (.inl ⟨_, _, _, rfl⟩) rfl h⟩
  | readBits =>
    obtain ⟨hf, h⟩ := execReadBits_busy hb h
    exact ⟨hf, Transacted.accessed h fun d _ => .ofResult _⟩
  | writeBits =>
    obtain ⟨hf, h⟩ := execWriteBits_busy hb h
    exact ⟨hf, readModifyWrite_accessed (.inr ⟨_, _, _, _, rfl⟩) rfl h⟩
  | readByte =>
    obtain ⟨hf, h⟩ := execReadByte_busy hb h
    exact ⟨hf, Transacted.accessed h fun d _ => .ofResult _⟩
  | writeByte =>
    obtain ⟨hf, h⟩ := execWriteByte_busy hb h
    exact ⟨hf, Transacted.accessed h fun d _ => .nothing⟩
  | readWord =>
    obtain ⟨hf, h⟩ := execReadWord_busy hb h
    exact ⟨hf, Transacted.accessed h fun d _ => .ofResult _⟩
  | writeWord =>
    obtain ⟨hf, h⟩ := execWriteWord_busy hb h
    exact ⟨hf, Transacted.accessed h fun d _ => .nothing⟩
  | readWords =>
    obtain ⟨hf, h, hfit⟩ := execReadWords_busy hb h
    exact ⟨hf, Transacted.accessed h fun d hd => .ofStore ⟨_, _, .inl rfl⟩ (hfit d hd)⟩
  | writeWords =>
    obtain ⟨hf, w, -, -, h⟩ := execWriteWords_busy hb h
    exact ⟨hf, Transacted.accessed h fun d _ => .nothing⟩
  | readBytes =>
    obtain ⟨hf, h, hfit⟩ := execReadBytes_busy hb h
    exact ⟨hf, Transacted.accessed h fun d hd => .ofStore ⟨_, _, .inr (.inl rfl)⟩ (hfit d hd)⟩
  | writeBytes =>
    obtain ⟨hf, w, -, -, h⟩ := execWriteBytes_busy hb h
    exact ⟨hf, Transacted.accessed h fun d _ => .nothing⟩
  | readBytesS =>
    obtain ⟨hf, h, hfit⟩ := execReadBytesS_busy hb h
    exact ⟨hf, Transacted.accessed h fun d hd => .ofStore ⟨_, _, .inr (.inr rfl)⟩ (hfit d hd)⟩
  | writeBytesS =>
    obtain ⟨hf, w, -, -, h⟩ := execWriteBytesS_busy hb h
    exact ⟨hf, Transacted.accessed h fun d _ => .nothing⟩
  | fifoGetPacket => cases hi

theorem stepTo_buf (n rlen : Nat) (s : State) : (stepTo n rlen s).buf = s.buf := by
  obtain ⟨-, e⟩ | ⟨-, e⟩ := stepTo_cases n rlen s <;> rw [e] <;> rfl

theorem stepTo_tmp (n rlen : Nat) (s : State) : (stepTo n rlen s).tmp = s.tmp := by
  obtain ⟨-, e⟩ | ⟨-, e⟩ := stepTo_cases n rlen s <;> rw [e] <;> rfl

end

/-! ### The clock and an accessor command -/

section
variable {s u v : State} {n : Ticks}

theorem next_stepTo_clockAt {k rlen : Nat} (h : v = clockAt n u) :
    (.next (stepTo k rlen v) : Out) = withNow n (.next (stepTo k rlen u)) := by
  subst h
  by_cases hk : k ≤ u.seq.toNat + 1
  · rw [stepTo, stepTo, if_pos hk, if_pos (show k ≤ (clockAt n u).seq.toNat + 1 from hk)]; rfl
  · rw [stepTo, stepTo, if_neg hk, if_neg (show ¬k ≤ (clockAt n u).seq.toNat + 1 from hk)]; rfl

theorem issueChecked_clockAt {i : Instr} {start : State → State}
    (hs : start (clockAt n s) = clockAt n (start s)) :
    issueChecked i start (clockAt n s) = withNow n (issueChecked i start s) := by
  have hcheck : issueCheck (clockAt n s).cfg i = issueCheck s.cfg i := rfl
  have hsource : sourceWritten i (clockAt n s).buf = sourceWritten i s.buf := rfl
  rw [issueChecked, issueChecked, hcheck, hsource, hs]
  cases issueCheck s.cfg i with
  | some e => rfl
  | none => cases sourceWritten i s.buf <;> rfl

/-- Neither the issue of an accessor command nor what it does in ACCESS looks at the clock, if its run does
not (R117). -/
theorem accessor_clockAt {i : Instr} {run : State → Out} (h : run (clockAt n s) = withNow n (run s)) :
    accessor i run (clockAt n s) = withNow n (accessor i run s) := by
  cases hb : s.status.busy with
  | false =>
    rw [accessor_issue hb, accessor_issue (s := clockAt n s) hb]
    exact issueChecked_clockAt rfl
  | true =>
    by_cases hf : s.fsm = .access
    · rw [accessor_busy hb hf, accessor_busy (s := clockAt n s) hb hf, h]
    · have hmiss (r : State) (hb : r.status.busy = true) (hf : r.fsm ≠ .access) :
          accessor i run r = .fault .controlMismatch := by rw [accessor, if_pos hb, if_neg hf]
      rw [hmiss s hb hf, hmiss (clockAt n s) hb hf]; rfl

theorem bufLoad_clockAt {i m : Nat} {k k' : List Byte → Out} (hk : ∀ d, k' d = withNow n (k d)) :
    bufLoad i m (clockAt n s) k' = withNow n (bufLoad i m s k) := by
  have hread : (clockAt n s).buf.readBlock i m = s.buf.readBlock i m := rfl
  rw [bufLoad, bufLoad, hread]
  cases s.buf.readBlock i m with
  | some d => exact hk d
  | none => rfl

theorem readModifyWrite_clockAt {reg : RegAddr} {f : Byte → Byte} :
    readModifyWrite reg f (clockAt n s) = withNow n (readModifyWrite reg f s) := by
  by_cases h0 : s.seq = 0
  · rw [readModifyWrite, readModifyWrite, if_pos h0, if_pos (show (clockAt n s).seq = 0 from h0)]
    exact transact_clockAt fun d u => next_stepTo_clockAt rfl
  · rw [readModifyWrite, readModifyWrite, if_neg h0, if_neg (show ¬(clockAt n s).seq = 0 from h0)]
    exact transact_clockAt fun d u => next_stepTo_clockAt rfl

end

end Sys2Proof.Machine
end

section
/-! PROOFS. The statements about what an accessor command leaves alone and does not read. -/

namespace Sys2Proof.Machine

open Sys2Proof.Expect

/-- Settles O30: what the computation writes, and the fields of a raised error. -/
theorem accessorStepFrame : Obligations.AccessorStepFrame := by
  intro i s t hi hb hc hx
  obtain ⟨-, req, h⟩ := exec_accessed hi hb hx
  obtain ⟨-, -, rlen, u, ⟨hframe, hbuf, htmp⟩, rfl⟩ | ⟨-, rfl⟩ | ⟨b, hd, -⟩ := h
  · refine ⟨?_, fun hno => ?_, fun hbit hbits => ?_⟩
    · obtain ⟨-, e⟩ | ⟨-, e⟩ := stepTo_cases (transactions i) rlen u <;> rw [e, hframe] <;> rfl
    · rw [stepTo_buf]
      refine hbuf.resolve_right ?_
      rintro ⟨⟨reg, n, h⟩, -⟩
      obtain ⟨h1, h2, h3⟩ := hno reg n
      exact h.elim h1 (Or.elim · h2 h3)
    · rw [stepTo_tmp]
      refine htmp.resolve_right ?_
      rintro (⟨reg, pos, x, h⟩ | ⟨reg, start, len, v, h⟩)
      · exact hbit _ _ _ h
      · exact hbits _ _ _ _ h
  · exact ⟨rfl, fun _ => rfl, fun _ _ => rfl⟩
  · exact absurd hd (replyTo_ne_cutByReset hc req b)

/-- Settles O31: no transaction, store, load or completion looks at NOW. -/
theorem accessorIgnoresTheClock : Obligations.AccessorIgnoresTheClock := by
  intro i s n hi
  change exec i (clockAt n s) = withNow n (exec i s)
  unfold exec
  cases i with
  | fifoGetPacket => cases hi
  | readBit | readBits | readByte | writeByte | readWord | writeWord =>
    exact accessor_clockAt (transact_clockAt fun d u => next_stepTo_clockAt rfl)
  | writeBit | writeBits => exact accessor_clockAt readModifyWrite_clockAt
  | readWords | readBytes | readBytesS =>
    exact accessor_clockAt (transact_clockAt fun d u =>
      bufStore_clockAt (s := u) fun v => next_stepTo_clockAt rfl)
  | writeWords | writeBytes | writeBytesS =>
    exact accessor_clockAt (bufLoad_clockAt fun d =>
      transact_clockAt fun d u => next_stepTo_clockAt rfl)

end Sys2Proof.Machine
end

section
/-! SUPPORT. Everything one step can do: one step of the latched command, nothing, or what the agenda's
entry does (R10, R21, R26, R29 to R31, R117, R119). -/

namespace Sys2Proof.Machine

open Sys2Proof.Expect

/-- What an entry of the agenda that is no step of a busy engine makes of the state. -/
inductive Acted (s : State) : Event → State → Prop where
  /-- Only the model's own record, the clock or PFAULT changes. -/
  | quiet {e : Event} {t : State}
      (h : t = { s with pfault := t.pfault, now := t.now, hostOut := t.hostOut }) : Acted s e t
  | stored {i : Nat} {b : Byte} (hb : s.status.busy = false) (hi : i < s.cfg.bufSize) :
      Acted s (.writeBuf i b) { s with buf := s.buf.write i b }
  | refused {w : Cmd} {e : ErrCode} (hb : s.status.busy = false) : Acted s (.issue w) (raise e 0 (latch w s))
  | begun {w : Cmd} {i : Instr} (hb : s.status.busy = false) (hd : decode w = .ok i)
      (hw : i.wellFormed s.cfg = true) (hs : sourceWritten i s.buf = true) :
      Acted s (.issue w) ((if isAccessor i then startAccess else startReader) (latch w s))
  | reset : Acted s .reset (resetEngine s)

section
variable {s s0 t : State} {e : Event} {i : Instr}

theorem hostIssue_acted {w : Cmd} (h : hostIssue exec w s = .next t) : Acted s (.issue w) t := by
  obtain ⟨-, rfl⟩ | ⟨hb, r, -, rfl⟩ | ⟨hb, i, hd, hx⟩ := hostIssue_next h
  · exact .quiet rfl
  · exact .refused hb
  · rw [exec_issue (s := latch w s) i hb] at hx
    obtain ⟨e, -, rfl⟩ | ⟨hc, hs, rfl⟩ := issueChecked_next hx
    · exact .refused hb
    · exact .begun hb hd ((issueCheck_eq_none s.cfg i).1 hc) hs

theorem hostReadReg_acted {n : Nat} (h : hostReadReg n s = .next t) : Acted s (.readReg n) t := by
  unfold hostReadReg at h
  split at h <;> cases h <;> exact .quiet rfl

theorem hostWriteReg_acted {n : Nat} {v : Data} (h : hostWriteReg n s = .next t) :
    Acted s (.writeReg n v) t := by
  unfold hostWriteReg at h
  split at h <;> cases h <;> exact .quiet rfl

theorem hostReadBuf_acted {j : Nat} (h : hostReadBuf j s = .next t) : Acted s (.readBuf j) t := by
  unfold hostReadBuf at h
  split at h
  · split at h
    · cases h; exact .quiet rfl
    · cases h
  · cases h; exact .quiet rfl

theorem hostWriteBuf_acted {j : Nat} {b : Byte} (h : hostWriteBuf j b s = .next t) :
    Acted s (.writeBuf j b) t := by
  unfold hostWriteBuf at h
  split at h
  · next hok => cases h; exact .stored hok.1 hok.2
  · cases h; exact .quiet rfl

theorem act_acted (he : e ≠ .engine ∨ s.status.busy = false) (h : act exec e s = .next t) :
    Acted s e t := by
  cases e with
  | issue w => exact hostIssue_acted h
  | writeBuf j b => exact hostWriteBuf_acted h
  | readReg n => exact hostReadReg_acted h
  | readBuf j => exact hostReadBuf_acted h
  | writeReg n v => exact hostWriteReg_acted h
  | reset => cases h; exact .reset
  | tick d => cases h; exact .quiet rfl
  | engine =>
    rw [act, engineTurn_idle (he.resolve_left (· rfl))] at h
    cases h; exact .quiet rfl

/-- The state the ENGINE's turn acts on differs in the agenda, the clock and the draw counter only. -/
theorem engineTurn_frame (h : EngineTurn s s0) :
    s0 = { s with agenda := s0.agenda, now := s0.now, draws := s0.draws } := by
  obtain ⟨rest, -, rfl⟩ | ⟨-, rfl⟩ := h <;> rfl

/-- When it is the ENGINE's turn (log entry 2). -/
theorem engineTurn_agenda (h : EngineTurn s s0) :
    s.agenda = [] ∨ ∃ rest, s.agenda = .engine :: rest := by
  obtain ⟨rest, ha, -⟩ | ⟨ha, -⟩ := h
  · exact .inr ⟨rest, ha⟩
  · exact .inl ha

/-- Everything a step that answers next can do. -/
theorem step_cases (h : step s = .next t) :
    (s.status.busy = true ∧ ∃ s0 i, EngineTurn s s0 ∧ decode s.cmd = .ok i ∧ exec i s0 = .next t) ∨
    (s.status.busy = false ∧ s.agenda = [] ∧ t = s) ∨
    (∃ e rest, s.agenda = e :: rest ∧ (e ≠ .engine ∨ s.status.busy = false) ∧
      Acted { s with agenda := rest } e t) := by
  have hp : s.pfault = false := by
    by_contra hp
    rw [step_pfault (by simpa using hp)] at h
    cases h
  cases ha : s.agenda with
  | nil =>
    rw [step_nil hp ha] at h
    split at h
    · next hb =>
      obtain ⟨h0, -⟩ | ⟨-, i, hd, hx⟩ := engineTurn_next h
      · cases hb.symm.trans h0
      · exact .inl ⟨hb, _, i, .inr ⟨ha, rfl⟩, hd, hx⟩
    · next hb => cases h; exact .inr (.inl ⟨by simpa using hb, rfl, rfl⟩)
  | cons e rest =>
    rw [step_cons hp ha] at h
    by_cases he : e ≠ .engine ∨ s.status.busy = false
    · exact .inr (.inr ⟨e, rest, rfl, he, act_acted (s := { s with agenda := rest }) he h⟩)
    · obtain ⟨he, hb⟩ := not_or.1 he
      obtain rfl := not_not.1 he
      obtain ⟨h0, -⟩ | ⟨hb, i, hd, hx⟩ := engineTurn_next h
      · exact absurd h0 hb
      · exact .inl ⟨hb, _, i, .inl ⟨rest, ha, rfl⟩, hd, hx⟩

theorem Acted.bus_eq (h : Acted s e t) : t.bus = s.bus := by
  cases h with
  | quiet h => rw [h]
  | begun => split <;> rfl
  | stored | refused | reset => rfl

/-- CMD is written by an issue while the engine is not busy, and by a reset (R25). -/
theorem Acted.cmd_eq (h : Acted s e t) :
    t.cmd = s.cmd ∨ (∃ w, e = .issue w ∧ s.status.busy = false ∧ t.cmd = w) ∨ (e = .reset ∧ t.cmd = 0) := by
  cases h with
  | quiet h => rw [h]; exact .inl rfl
  | stored => exact .inl rfl
  | refused hb => exact .inr (.inl ⟨_, rfl, hb, rfl⟩)
  | begun hb => exact .inr (.inl ⟨_, rfl, hb, by split <;> rfl⟩)
  | reset => exact .inr (.inr ⟨rfl, rfl⟩)

/-- Only a listed reply cuts a transaction (log entry 11). -/
theorem replies_of_cutByReset {req : Request} {b : Bool} (h : replyTo req s = .cutByReset b) :
    ∃ more, s.replies = .cutByReset b :: more := by
  unfold replyTo at h
  split at h
  · split at h <;> cases h
  · cases h
  · cases h
  · next hl => cases h; exact ⟨_, hl⟩

/-- A transaction is on record however it ends (R48). -/
theorem exec_busy_bus (hb : s.status.busy = true) (h : exec i s = .next t) : ∃ e, t.bus = e :: s.bus := by
  obtain ⟨req, next, h, hu⟩ := exec_busy hb h
  obtain ⟨d, -, -, rfl⟩ | ⟨-, rfl⟩ | ⟨b, -, rfl⟩ := h
  · exact ⟨_, (hu d).1⟩
  · exact ⟨_, rfl⟩
  · exact ⟨_, rfl⟩

/-- A step of a command keeps CMD, unless it is cut by the reset (R25). -/
theorem exec_busy_cmd (hb : s.status.busy = true) (h : exec i s = .next t) :
    t.cmd = s.cmd ∨ t.cmd = 0 ∧ ∃ b more, s.replies = .cutByReset b :: more := by
  obtain ⟨req, next, h, hu⟩ := exec_busy hb h
  obtain ⟨d, -, -, rfl⟩ | ⟨-, rfl⟩ | ⟨b, hr, rfl⟩ := h
  · exact .inl (hu d).2.1
  · exact .inl rfl
  · obtain ⟨more, hm⟩ := replies_of_cutByReset hr
    exact .inr ⟨rfl, b, more, hm⟩

/-! ### The transaction a step performs -/

/-- A reset in flight abandons the command (R119, R120). -/
theorem Performs.cut {req : Request} {o : Out} {b : Bool} (h : Performs req s o)
    (hr : replyTo req s = .cutByReset b) : o = .next (resetEngine (answered req (.cutByReset b) s)) := by
  obtain ⟨k, rfl, -⟩ := h
  rw [transact, hr, ← afterTxn_eq_answered hr]

/-- A step that performs a transaction answers next, and has it on record. -/
theorem Performs.next {req : Request} {o : Out} (h : Performs req s o) :
    ∃ t r, o = .next t ∧ t.bus = ⟨req, r⟩ :: s.bus := by
  cases hr : replyTo req s with
  | ok d =>
    obtain ⟨t, ht, hbus⟩ := h.ok hr
    exact ⟨t, _, ht, hbus⟩
  | error => exact ⟨_, _, h.error hr, rfl⟩
  | cutByReset b => exact ⟨_, _, h.cut hr, rfl⟩

/-- A block transaction has between 1 and `limit` bytes (R37). -/
def Request.Fits (limit : Nat) (req : Request) : Prop :=
  (∀ a n, req = .read a n → 1 ≤ n ∧ n ≤ limit) ∧
  (∀ a v, req = .write a v → 1 ≤ v.length ∧ v.length ≤ limit)

theorem fits_readByte {m : Nat} {a : RegAddr} : (Request.readByte a).Fits m := ⟨nofun, nofun⟩

theorem fits_writeByte {m : Nat} {a : RegAddr} {b : Byte} : (Request.writeByte a b).Fits m :=
  ⟨nofun, nofun⟩

theorem fits_read {m n : Nat} {a : RegAddr} (h1 : 1 ≤ n) (h2 : n ≤ m) : (Request.read a n).Fits m := by
  refine ⟨?_, nofun⟩
  rintro _ _ ⟨⟩
  exact ⟨h1, h2⟩

theorem fits_write {m : Nat} {a : RegAddr} {v : List Byte} (h1 : 1 ≤ v.length) (h2 : v.length ≤ m) :
    (Request.write a v).Fits m := by
  refine ⟨nofun, ?_⟩
  rintro _ _ ⟨⟩
  exact ⟨h1, h2⟩

@[simp] theorem bufBytes_length (s : State) (j n : Nat) : (bufBytes s j n).length = n := by
  simp [bufBytes]

/-- The transaction a running command issues next fits the transport (R37, R62). -/
theorem nextRequest_fits (h : Inv s) (hm : 2 ≤ s.cfg.maxBlock) (hb : s.status.busy = true)
    (hd : decode s.cmd = .ok i) : (nextRequest i s).Fits s.cfg.maxBlock := by
  obtain ⟨-, -, ⟨hbusy, -⟩, hc⟩ := h
  rw [hb, eq_comm] at hbusy
  by_cases hf : s.fsm = .access
  · obtain ⟨hi, hw, -, -⟩ := accessor_running hc hf hd
    cases i with
    | fifoGetPacket => cases hi
    | readBit | readBits | readByte | readBytesS => exact fits_readByte
    | writeByte | writeBytesS => exact fits_writeByte
    | writeBit | writeBits =>
      rw [nextRequest]
      split
      · exact fits_readByte
      · exact fits_writeByte
    | readWord | readWords => exact fits_read (by decide) hm
    | writeWord => exact fits_write (by simp) hm
    | writeWords => exact fits_write (by simp) (by simpa using hm)
    | readBytes reg n =>
      obtain ⟨h1, hn⟩ := countWithin_iff.1 (Bool.and_eq_true_iff.1 hw).1
      exact fits_read h1 hn
    | writeBytes reg n =>
      obtain ⟨h1, hn⟩ := countWithin_iff.1 (Bool.and_eq_true_iff.1 hw).1
      exact fits_write (by simpa using h1) (by simpa using hn)
  · obtain ⟨p, hp, -⟩ := reader_running hc hbusy hf
    obtain rfl : i = .fifoGetPacket p := by simpa [hp] using hd.symm
    rw [nextRequest]
    split
    · split
      · exact fits_readByte
      · exact fits_writeByte
    · split
      · next hpos => exact fits_read (by omega) (Nat.min_le_right _ _)
      · exact fits_read (by decide) hm
    · next hs =>
      rw [ControlOk, hs] at hc
      obtain ⟨_, -, hpos, -⟩ := hc
      exact fits_read (by omega) (Nat.min_le_right _ _)
    · exact fits_read (by decide) hm

end

end Sys2Proof.Machine
end

section
/-! PROOFS. The statements about CMD, the record of transactions, block sizes and the reset in flight. -/

namespace Sys2Proof.Machine

open Sys2Proof.Expect

/-- Settles O53: by what the step was. -/
theorem commandWordChangesOnlyAtIssueOrReset : Obligations.CommandWordChangesOnlyAtIssueOrReset := by
  intro s t h
  obtain ⟨hb, s0, i, hturn, -, hx⟩ | ⟨-, -, rfl⟩ | ⟨e, rest, ha, -, hact⟩ := step_cases h
  · rw [engineTurn_frame hturn] at hx
    obtain hc | ⟨hc, b, more, hr⟩ := exec_busy_cmd (by exact hb) hx
    · exact .inl hc
    · exact .inr (.inr ⟨hc, .inr ⟨b, more, hr, hb⟩⟩)
  · exact .inl rfl
  · obtain hc | ⟨w, rfl, hb, hc⟩ | ⟨rfl, hc⟩ := hact.cmd_eq
    · exact .inl hc
    · exact .inr (.inl ⟨w, rest, ha, hb, hc⟩)
    · exact .inr (.inr ⟨hc, .inl ⟨rest, ha⟩⟩)

/-- Settles O54: a step of a busy engine is one transaction, any other none. -/
theorem stepIssuesAtMostOneTransaction : Obligations.StepIssuesAtMostOneTransaction := by
  intro s t h
  obtain ⟨hb, s0, i, hturn, -, hx⟩ | ⟨hb, -, rfl⟩ | ⟨e, rest, ha, he, hact⟩ := step_cases h
  · rw [engineTurn_frame hturn] at hx
    obtain ⟨e, he⟩ := exec_busy_bus (by exact hb) hx
    have hbus : ∃ e, t.bus = e :: s.bus := ⟨e, he⟩
    refine ⟨.inr hbus, fun _ => hbus, ?_⟩
    rintro (h0 | ⟨e, rest, ha, he⟩)
    · cases hb.symm.trans h0
    · obtain h0 | ⟨_, h0⟩ := engineTurn_agenda hturn <;> cases ha.symm.trans h0
      exact absurd rfl he
  · refine ⟨.inl rfl, fun h => ?_, fun _ => rfl⟩
    cases hb.symm.trans h.1
  · have hbus : t.bus = s.bus := hact.bus_eq
    refine ⟨.inl hbus, ?_, fun _ => hbus⟩
    rintro ⟨hb, h0 | ⟨_, h0⟩⟩ <;> cases ha.symm.trans h0
    obtain he | h0 := he
    · exact absurd rfl he
    · cases hb.symm.trans h0

/-- Settles O55: the transaction on record is the one the rules give the command, which fits. -/
theorem blocksFitTheTransport : Obligations.BlocksFitTheTransport := by
  intro s t e hinv hm h hbus
  obtain ⟨hb, s0, i, hturn, hd, hx⟩ | ⟨-, -, rfl⟩ | ⟨e', rest, -, -, hact⟩ := step_cases h
  · obtain ⟨hinv0, hstatus, hcmd, hbus0⟩ := engineTurn_unchanged hturn hinv
    have hcfg : s0.cfg = s.cfg := by rw [engineTurn_frame hturn]
    rw [← hstatus] at hb
    rw [← hcmd] at hd
    obtain ⟨t', r, ht', hbus'⟩ := (exec_performs hinv0 hb hd).next
    obtain rfl : t = t' := by simpa [hx] using ht'
    obtain ⟨rfl, -⟩ := List.cons.inj (hbus.symm.trans hbus')
    exact hcfg ▸ nextRequest_fits hinv0 (hcfg ▸ hm) hb hd
  · simp at hbus
  · have hsame : t.bus = s.bus := hact.bus_eq
    simp [hsame] at hbus

/-- Settles O51: the engine's reset after the transaction, and an idle engine takes no step. -/
theorem resetInFlightAbandonsTheCommand : Obligations.ResetInFlightAbandonsTheCommand := by
  rintro s s0 i _ b hinv hp hb hd hturn rfl hr
  obtain ⟨hinv0, hstatus, hcmd, hbus⟩ := engineTurn_unchanged hturn hinv
  have hx := (exec_performs hinv0 (hstatus ▸ hb) (hcmd ▸ hd)).cut hr
  have hp0 : s0.pfault = false := by rw [engineTurn_frame hturn]; exact hp
  have hcfg : s0.cfg = s.cfg := by rw [engineTurn_frame hturn]
  refine ⟨_, (step_engineTurn hp hb hd hturn).trans hx, congrArg (List.cons _) hbus, rfl,
    resetEngine_statusWord _, rfl, rfl, rfl, fun _ => rfl, hp0, hcfg, fun more ha => ?_⟩
  exact (step_cons (by exact hp0) ha).trans (engineTurn_idle rfl)

end Sys2Proof.Machine
end

section
/-! SUPPORT. What stops the machine: the host's mistakes, event by event (R31, R33, D37). -/

namespace Sys2Proof.Machine

open Sys2Proof.Expect

/-- The host asks for a BUF byte that nothing has written since reset: it reads one, or issues a command
that passes its checks and takes one (R31, R33). -/
def Mistake (s : State) (e : Event) : Prop :=
  (∃ j, e = .readBuf j ∧ j < s.cfg.bufSize ∧ s.buf.read j = none) ∨
  (∃ w i, e = .issue w ∧ s.status.busy = false ∧ decode w = .ok i ∧ i.wellFormed s.cfg = true ∧
    ¬SourceWritten i s)

section
variable {s : State} {e : Event}

theorem act_mistake (h : Mistake s e) : act exec e s = .fault .unwrittenBuf := by
  obtain ⟨j, rfl, hj, hread⟩ | ⟨w, i, rfl, hb, hd, hw, hs⟩ := h
  · exact hostReadBuf_none hj hread
  · exact (hostIssue_legal hb hd).trans (exec_issue_unwritten (s := latch w s) hb hw hs)

theorem hostIssue_answers {w : Cmd} (h : ¬Mistake s (.issue w)) : ∃ t, hostIssue exec w s = .next t := by
  cases hb : s.status.busy with
  | true => exact ⟨_, hostIssue_busy hb⟩
  | false =>
    cases hd : decode w with
    | error r => exact ⟨_, hostIssue_illegal hb hd⟩
    | ok i =>
      rw [hostIssue_legal hb hd]
      cases hw : i.wellFormed s.cfg with
      | false =>
        obtain ⟨e, -, hx⟩ := exec_issue_raises (s := latch w s) hb hw
        exact ⟨_, hx⟩
      | true =>
        have hs : SourceWritten i s := not_not.1 fun hs => h (.inr ⟨w, i, rfl, hb, hd, hw, hs⟩)
        exact ⟨_, exec_issue_begins (s := latch w s) hb hw hs⟩

theorem hostReadBuf_answers {j : Nat} (h : ¬Mistake s (.readBuf j)) : ∃ t, hostReadBuf j s = .next t := by
  by_cases hj : j < s.cfg.bufSize
  · obtain ⟨b, hb⟩ := Option.ne_none_iff_exists'.1 fun hread => h (.inl ⟨j, rfl, hj, hread⟩)
    exact ⟨_, hostReadBuf_some hj hb⟩
  · exact ⟨_, hostReadBuf_outside (Nat.not_lt.1 hj)⟩

/-- An entry of the agenda that is no mistake of the host and no turn of a busy engine answers next. -/
theorem act_answers (he : e ≠ .engine ∨ s.status.busy = false) (h : ¬Mistake s e) :
    ∃ t, act exec e s = .next t := by
  cases e with
  | issue w => exact hostIssue_answers h
  | readBuf j => exact hostReadBuf_answers h
  | writeBuf j b =>
    simp only [act, hostWriteBuf]
    split
    · exact ⟨_, rfl⟩
    · exact ⟨_, rfl⟩
  | readReg n =>
    simp only [act, hostReadReg]
    split
    · exact ⟨_, rfl⟩
    · exact ⟨_, rfl⟩
  | writeReg n v =>
    simp only [act, hostWriteReg]
    split
    · exact ⟨_, rfl⟩
    · exact ⟨_, rfl⟩
  | reset | tick => exact ⟨_, rfl⟩
  | engine => exact ⟨_, engineTurn_idle (he.resolve_left (· rfl))⟩

/-- A busy engine has a command in CMD (R20, R21, R25). -/
theorem exists_running (h : Inv s) (hb : s.status.busy = true) : ∃ i, decode s.cmd = .ok i := by
  obtain ⟨-, -, ⟨hbusy, -⟩, hc⟩ := h
  by_cases hf : s.fsm = .access
  · rw [ControlOk, hf] at hc
    obtain ⟨i, -, ⟨hd, -⟩, -⟩ := hc
    exact ⟨i, hd⟩
  · obtain ⟨p, hd, -⟩ := reader_running hc (hbusy ▸ hb) hf
    exact ⟨_, hd⟩

/-- The turn of a busy engine answers next. -/
theorem step_engineTurn_answers {s0 : State} (h : Inv s) (hp : s.pfault = false)
    (hb : s.status.busy = true) (ht : EngineTurn s s0) : ∃ t, step s = .next t := by
  obtain ⟨i, hd⟩ := exists_running h hb
  obtain ⟨hinv0, hstatus, hcmd, -⟩ := engineTurn_unchanged ht h
  obtain ⟨t, -, hx, -⟩ := (exec_performs hinv0 (hstatus ▸ hb) (hcmd ▸ hd)).next
  exact ⟨t, (step_engineTurn hp hb hd ht).trans hx⟩

/-- Without a mistake of the host the machine goes on. -/
theorem step_answers (h : Inv s) (hp : s.pfault = false)
    (hm : ∀ e rest, s.agenda = e :: rest → ¬Mistake s e) : ∃ t, step s = .next t := by
  cases ha : s.agenda with
  | nil =>
    cases hb : s.status.busy with
    | true => exact step_engineTurn_answers h hp hb (.inr ⟨ha, rfl⟩)
    | false => exact ⟨_, step_nil_idle hp hb ha⟩
  | cons e rest =>
    by_cases he : e ≠ .engine ∨ s.status.busy = false
    · rw [step_cons hp ha]
      exact act_answers (s := { s with agenda := rest }) he (hm e rest ha)
    · obtain ⟨he, hb⟩ := not_or.1 he
      obtain rfl := not_not.1 he
      exact step_engineTurn_answers h hp (Bool.eq_true_of_not_eq_false hb) (.inl ⟨rest, ha, rfl⟩)

/-- The statement's words for a mistake at the head of the agenda. -/
theorem mistake_iff : (∃ e rest, s.agenda = e :: rest ∧ Mistake s e) ↔
    (∃ j rest, s.agenda = .readBuf j :: rest ∧ j < s.cfg.bufSize ∧ s.buf.read j = none) ∨
    (∃ w rest i, s.agenda = .issue w :: rest ∧ s.status.busy = false ∧ decode w = .ok i ∧
      i.wellFormed s.cfg = true ∧ ¬SourceWritten i s) := by
  constructor
  · rintro ⟨_, rest, ha, ⟨j, rfl, h⟩ | ⟨w, i, rfl, h⟩⟩
    · exact .inl ⟨j, rest, ha, h⟩
    · exact .inr ⟨w, rest, i, ha, h⟩
  · rintro (⟨j, rest, ha, h⟩ | ⟨w, rest, i, ha, h⟩)
    · exact ⟨_, rest, ha, .inl ⟨j, rfl, h⟩⟩
    · exact ⟨_, rest, ha, .inr ⟨w, i, rfl, h⟩⟩

end

end Sys2Proof.Machine
end

section
/-! PROOFS. The statement about what stops the machine. -/

namespace Sys2Proof.Machine

/-- Settles O60: PFAULT and the host's mistakes fault, and without either the step answers next. -/
theorem onlyHostMistakesStopTheMachine : Obligations.OnlyHostMistakesStopTheMachine := by
  intro s hinv
  rw [← mistake_iff]
  cases hp : s.pfault with
  | true => simp [step_pfault hp, eq_comm]
  | false =>
    by_cases hm : ∃ e rest, s.agenda = e :: rest ∧ Mistake s e
    · obtain ⟨e, rest, ha, he⟩ := hm
      have hstep : step s = .fault .unwrittenBuf :=
        (step_cons hp ha).trans (act_mistake (s := { s with agenda := rest }) he)
      simp [hstep, ha, he, eq_comm]
    · have hno e rest (ha : s.agenda = e :: rest) : ¬Mistake s e := fun he => hm ⟨e, rest, ha, he⟩
      obtain ⟨t, ht⟩ := step_answers hinv hp hno
      simpa [ht] using hno

end Sys2Proof.Machine
end

section
/-! SUPPORT. The parts of the invariant, operation by operation: BUF in form and in range, STATUS in
agreement with `fsm`, and `fsm`, SEQ, IDX and REMAIN fitting the command in CMD. -/

namespace Sys2Proof.Machine

open Sys2Proof.Expect

/-! ### The parts of the invariant -/

theorem Inv.legal {s : State} (h : Inv s) : s.cfg.Legal := h.1
theorem Inv.bufOk {s : State} (h : Inv s) : BufOk s := h.2.1
theorem Inv.statusOk {s : State} (h : Inv s) : StatusOk s := h.2.2.1
theorem Inv.controlOk {s : State} (h : Inv s) : ControlOk s := h.2.2.2

theorem Inv.busy {s : State} (h : Inv s) (hf : s.fsm.isBusy = true) : s.status.busy = true :=
  h.statusOk.1.trans hf

/-! ### What a step of the reader makes of the state -/

/-- What a step of FIFO_GET_PACKET of size `p` makes of `u`, the state of its answered transaction, by the
control state it was in (R92 to R96). -/
inductive ReaderMoved (p : Data) (u : State) : State → Prop where
  | stays (hf : u.fsm ∈ [Fsm.polling, .waiting, .drainResetWait]) : ReaderMoved p u u
  | reads : ReaderMoved p u (enterRead p.toNat u)
  | timesOut : ReaderMoved p u (timeOut u)
  | overflows : ReaderMoved p u
      { u with status := { u.status with ovf := true }, seq := 0, fsm := .drainReset }
  | drains (r : Half) : ReaderMoved p u
      { u with status := { u.status with drained := true }, remain := r, fsm := .drainDiscard }
  | waits : ReaderMoved p u { u with fsm := .waiting }
  | takesByte (hf : u.fsm = .drainReset) (b : Byte) : ReaderMoved p u { u with tmp := b, seq := 1 }
  | resets : ReaderMoved p u { u with fsm := .drainResetWait }
  | discards (hf : u.fsm = .drainDiscard) (r : Half) : ReaderMoved p u { u with remain := r }
  | stores (hf : u.fsm = .readPacket) {v : List Byte} (hv : v.length = chunk u)
      (hfit : u.idx.toNat + v.length ≤ u.cfg.bufSize) :
      ReaderMoved p u (packetDone p.toNat { u with
        buf := u.buf.writeBlock u.idx.toNat v, idx := BitVec.ofNat 16 (u.idx.toNat + chunk u),
        remain := BitVec.ofNat 16 (u.remain.toNat - chunk u) })

section
variable {s t u : State} {p : Data} {c : Nat} {req : Request}

theorem classify_moved (hf : u.fsm = .polling ∨ u.fsm = .waiting) :
    ReaderMoved p u (classify p.toNat c u) := by
  obtain ⟨-, e⟩ | ⟨-, -, e⟩ | ⟨-, -, e⟩ | ⟨-, -, e⟩ | ⟨-, -, e⟩ := classify_cases p.toNat c u <;> rw [e]
  · exact .reads
  · exact .overflows
  · exact .drains _
  · exact .timesOut
  · exact .stays (by simpa [or_assoc] using Or.inl hf)

theorem afterReset_moved (hf : u.fsm = .drainResetWait) : ReaderMoved p u (afterReset p.toNat c u) := by
  obtain ⟨-, -, e⟩ | ⟨-, -, e⟩ | ⟨-, -, e⟩ | ⟨-, -, -, e⟩ := afterReset_cases p.toNat c u <;> rw [e]
  · exact .stays (by simp [hf])
  · exact .reads
  · exact .timesOut
  · exact .waits

theorem afterDiscard_moved (hf : u.fsm = .drainDiscard) : ReaderMoved p u (afterDiscard p.toNat c u) := by
  obtain ⟨-, e⟩ | ⟨-, e⟩ | ⟨-, -, e⟩ | ⟨-, -, e⟩ := afterDiscard_cases p.toNat c u <;> rw [e]
  · exact .discards hf _
  · exact .reads
  · exact .timesOut
  · exact .waits

/-- The transaction of a reader's step changes nothing of the engine but FIFOCOUNT. -/
def Fetched (s u : State) : Prop :=
  u = { s with replies := u.replies, draws := u.draws, bus := u.bus, fifocount := u.fifocount }

/-- Everything one ENGINE step of the reader can do. -/
theorem exec_reader_moved (hb : s.status.busy = true) (h : exec (.fifoGetPacket p) s = .next t) :
    s.fsm ≠ .access ∧ ∃ req, Exchanged req (fun t => ∃ u, Fetched s u ∧ ReaderMoved p u t) s t := by
  have hne {f : Fsm} (hf : s.fsm = f) (hn : f ≠ .access) : s.fsm ≠ .access := hf ▸ hn
  obtain ⟨hf, h⟩ | ⟨hf, -, h⟩ | ⟨hf, -, h⟩ | ⟨hf, h⟩ | ⟨hf, -, h⟩ | ⟨hf, -, h⟩ | ⟨hf, h, hfit⟩ :=
    execFifoGetPacket_busy hb h
  · refine ⟨by obtain hf | hf := hf <;> rw [hf] <;> decide, _, h.exchanged fun d _ =>
      ⟨counted d s, rfl, classify_moved hf⟩⟩
  · exact ⟨hne hf (by decide), _, h.exchanged fun d _ => ⟨afterTxn _ s, rfl, .takesByte (by exact hf) _⟩⟩
  · exact ⟨hne hf (by decide), _, h.exchanged fun d _ => ⟨afterTxn _ s, rfl, .resets⟩⟩
  · exact ⟨hne hf (by decide), _, h.exchanged fun d _ => ⟨counted d s, rfl, afterReset_moved hf⟩⟩
  · exact ⟨hne hf (by decide), _, h.exchanged fun d _ => ⟨afterTxn _ s, rfl, .discards (by exact hf) _⟩⟩
  · exact ⟨hne hf (by decide), _, h.exchanged fun d _ => ⟨counted d s, rfl, afterDiscard_moved hf⟩⟩
  · exact ⟨hne hf (by decide), _, h.exchanged fun d hd =>
      ⟨afterTxn _ s, rfl, .stores (by exact hf) (replyTo_length hd) (hfit d hd)⟩⟩

/-- A step of any command is the step of an accessor command or of the reader. -/
theorem exec_busy_cases {i : Instr} (hb : s.status.busy = true) (h : exec i s = .next t) :
    (isAccessor i = true ∧ s.fsm = .access ∧ Accessed i s t) ∨
    (∃ p, i = .fifoGetPacket p ∧ s.fsm ≠ .access ∧
      ∃ req, Exchanged req (fun t => ∃ u, Fetched s u ∧ ReaderMoved p u t) s t) := by
  by_cases hi : isAccessor i = true
  · exact .inl ⟨hi, exec_accessed hi hb h⟩
  · cases i with
    | fifoGetPacket p => exact .inr ⟨p, rfl, exec_reader_moved hb h⟩
    | _ => exact absurd rfl hi

end

/-! ### BUF in canonical form and in range -/

section
variable {s t u : State} {e : Event} {i : Instr} {p : Data}

/-- BUF's form is a matter of BUF and the parameters. -/
theorem BufOk.of_eq (h : BufOk s) (hb : t.buf = s.buf) (hc : t.cfg = s.cfg) : BufOk t := by
  rw [BufOk, hb, hc]; exact h

theorem BufOk.of_store (h : BufOk s) {j : Nat} {v : List Byte} (hj : j + v.length ≤ s.cfg.bufSize)
    (hb : t.buf = s.buf.writeBlock j v) (hc : t.cfg = s.cfg) : BufOk t := by
  rw [BufOk, hb, hc]
  exact ⟨Memory.wf_writeBlock _ _ h.1, Memory.below_writeBlock hj h.2⟩

theorem bufOk_resetEngine : BufOk (resetEngine s) := ⟨rfl, rfl⟩

theorem Acted.bufOk (h : Acted s e t) (hs : BufOk s) : BufOk t := by
  cases h with
  | quiet h => rw [h]; exact hs
  | stored _ hi => exact ⟨Memory.wf_write _ _ hs.1, Memory.below_write _ hi hs.2⟩
  | refused => exact hs
  | begun => split <;> exact hs
  | reset => exact bufOk_resetEngine

theorem stepTo_cfg (n rlen : Nat) (s : State) : (stepTo n rlen s).cfg = s.cfg := by
  obtain ⟨-, e⟩ | ⟨-, e⟩ := stepTo_cases n rlen s <;> rw [e] <;> rfl

theorem packetDone_buf (n : Nat) (s : State) : (packetDone n s).buf = s.buf := by
  unfold packetDone; split <;> rfl

theorem packetDone_cfg (n : Nat) (s : State) : (packetDone n s).cfg = s.cfg := by
  unfold packetDone; split <;> rfl

theorem Wrote.bufOk (h : Wrote i s u) (hs : BufOk s) : BufOk u := by
  have hc : u.cfg = s.cfg := by rw [h.frame]
  obtain hb | ⟨-, j, v, hj, hb⟩ := h.buf
  · exact hs.of_eq hb hc
  · exact hs.of_store hj hb hc

theorem ReaderMoved.bufOk (h : ReaderMoved p u t) (hu : BufOk u) : BufOk t := by
  cases h with
  | stores _ _ hfit => exact hu.of_store hfit (packetDone_buf _ _) (packetDone_cfg _ _)
  | _ => exact hu

theorem exec_bufOk (hb : s.status.busy = true) (h : exec i s = .next t) (hs : BufOk s) : BufOk t := by
  obtain ⟨-, -, req, h⟩ | ⟨p, -, -, req, h⟩ := exec_busy_cases hb h
  · obtain ⟨-, -, rlen, u, hw, rfl⟩ | ⟨-, rfl⟩ | ⟨b, -, rfl⟩ := h
    · exact (hw.bufOk hs).of_eq (stepTo_buf _ _ _) (stepTo_cfg _ _ _)
    · exact hs
    · exact bufOk_resetEngine
  · obtain ⟨-, -, u, hu, hm⟩ | ⟨-, rfl⟩ | ⟨b, -, rfl⟩ := h
    · exact hm.bufOk (by rw [hu]; exact hs)
    · exact hs
    · exact bufOk_resetEngine

/-! ### STATUS in agreement with `fsm` -/

/-- STATUS of a running command: nothing reported yet (R21, R112). -/
def Quiet (t : Status) : Prop :=
  t.busy = true ∧ t.done = false ∧ t.err = .none ∧ t.timeout = false ∧ t.pkt = false ∧ t.rlen = 0

theorem StatusOk.quiet (h : StatusOk s) (hb : s.status.busy = true) : Quiet s.status := by
  obtain ⟨-, -, hpkt, htime⟩ := unfinished_of_statusOk h hb
  obtain ⟨-, -, -, hrun, -⟩ := h
  obtain ⟨hdone, herr, hrlen⟩ := hrun hb
  exact ⟨hb, hdone, herr, htime, hpkt, hrlen⟩

theorem statusOk_running (h : Quiet s.status) (hf : s.fsm.isBusy = true) : StatusOk s := by
  obtain ⟨hb, hdone, herr, htime, hpkt, hrlen⟩ := h
  have hp : s.fsm ≠ .packetReady := by intro h; rw [h] at hf; cases hf
  have ht : s.fsm ≠ .timedOut := Fsm.ne_timedOut_of_isBusy hf
  exact ⟨hb.trans hf.symm, hpkt.trans (decide_eq_false hp).symm, htime.trans (decide_eq_false ht).symm,
    fun _ => ⟨hdone, herr, hrlen⟩, fun h => (h.elim hp ht).elim, fun h => (ht h).elim,
    fun h => (h herr).elim⟩

theorem statusOk_raise {e : ErrCode} {v : Data} (hp : s.status.pkt = false)
    (ht : s.status.timeout = false) : StatusOk (raise e v s) :=
  ⟨rfl, hp, ht, nofun, nofun, nofun, fun _ => ⟨rfl, rfl, rfl⟩⟩

theorem statusOk_resetEngine : StatusOk (resetEngine s) :=
  ⟨rfl, rfl, rfl, nofun, nofun, nofun, fun h => (h rfl).elim⟩

theorem statusOk_timeOut (h : Quiet s.status) : StatusOk (timeOut s) := by
  obtain ⟨-, -, herr, -, hpkt, -⟩ := h
  exact ⟨rfl, hpkt, rfl, nofun, fun _ => rfl, fun _ => rfl, fun h => (h herr).elim⟩

theorem statusOk_complete {n : Nat} (h : Quiet s.status) (hf : s.fsm = .access) :
    StatusOk (complete n s) := by
  obtain ⟨-, -, herr, htime, hpkt, -⟩ := h
  have hidle : (complete n s).fsm = .idle := if_pos hf
  rw [StatusOk, hidle]
  exact ⟨rfl, hpkt, htime, nofun, nofun, nofun, fun h => (h herr).elim⟩

theorem statusOk_packetDone {n : Nat} (h : Quiet s.status) (hf : s.fsm = .readPacket) :
    StatusOk (packetDone n s) := by
  by_cases h0 : s.remain = 0
  · obtain ⟨-, -, herr, htime, -, -⟩ := h
    rw [packetDone_of_none h0]
    exact ⟨rfl, rfl, htime, nofun, fun _ => rfl, nofun, fun h => (h herr).elim⟩
  · rw [packetDone_of_rest h0]
    exact statusOk_running h (by rw [hf]; rfl)

theorem Acted.statusOk (h : Acted s e t) (hs : StatusOk s) : StatusOk t := by
  cases h with
  | quiet h => rw [h]; exact hs
  | stored => exact hs
  | refused => exact statusOk_raise rfl rfl
  | begun =>
    split
    · exact statusOk_running ⟨rfl, rfl, rfl, rfl, rfl, rfl⟩ rfl
    · exact statusOk_running ⟨rfl, rfl, rfl, rfl, rfl, rfl⟩ rfl
  | reset => exact statusOk_resetEngine

theorem ReaderMoved.statusOk (h : ReaderMoved p u t) (hu : StatusOk u) (hb : u.status.busy = true) :
    StatusOk t := by
  have hq : Quiet u.status := hu.quiet hb
  cases h with
  | stays | takesByte | discards => exact hu
  | reads | overflows | drains | waits | resets => exact statusOk_running hq rfl
  | timesOut => exact statusOk_timeOut hq
  | stores hf => exact statusOk_packetDone hq hf

theorem Wrote.statusOk {n rlen : Nat} (h : Wrote i s u) (hs : StatusOk s) (hb : s.status.busy = true)
    (hf : s.fsm = .access) : StatusOk (stepTo n rlen u) := by
  rw [h.frame]
  obtain ⟨-, e⟩ | ⟨-, e⟩ := stepTo_cases n rlen
    { s with buf := u.buf, tmp := u.tmp, result := u.result } <;> rw [e]
  · exact statusOk_complete (hs.quiet hb) hf
  · exact hs

theorem exec_statusOk (hb : s.status.busy = true) (h : exec i s = .next t) (hs : StatusOk s) :
    StatusOk t := by
  obtain ⟨-, -, -, htime, hpkt, -⟩ := hs.quiet hb
  obtain ⟨-, hf, req, h⟩ | ⟨p, -, -, req, h⟩ := exec_busy_cases hb h
  · obtain ⟨-, -, rlen, u, hw, rfl⟩ | ⟨-, rfl⟩ | ⟨b, -, rfl⟩ := h
    · exact hw.statusOk hs hb hf
    · exact statusOk_raise hpkt htime
    · exact statusOk_resetEngine
  · obtain ⟨-, -, u, hu, hm⟩ | ⟨-, rfl⟩ | ⟨b, -, rfl⟩ := h
    · exact hm.statusOk (by rw [hu]; exact hs) (by rw [hu]; exact hb)
    · exact statusOk_raise hpkt htime
    · exact statusOk_resetEngine

end

end Sys2Proof.Machine
end

section
/-! SUPPORT. `fsm`, SEQ, IDX and REMAIN fitting the command in CMD, kept by every operation (R68, R92 to
R96). -/

namespace Sys2Proof.Machine

open Sys2Proof.Expect

section
variable {s t u : State} {e : Event} {i : Instr} {p : Data} {m : Memory}

/-- A well-formed accessor command has a transaction (R45, R62). -/
theorem transactions_pos (hi : isAccessor i = true) (hw : i.wellFormed s.cfg = true) :
    0 < transactions i := by
  cases i with
  | readWords | writeWords | readBytesS | writeBytesS =>
    exact (countWithin_iff.1 (Bool.and_eq_true_iff.1 hw).1).1
  | fifoGetPacket => cases hi
  | writeBit | writeBits => exact Nat.two_pos
  | _ => exact Nat.one_pos

/-- The packet size of a running reader fits BUF and a 16-bit count (R7, R62). -/
theorem packetSize_bounds (hr : Running (.fifoGetPacket p) s) (hcfg : s.cfg.Legal) :
    1 ≤ p.toNat ∧ p.toNat ≤ s.cfg.bufSize ∧ p.toNat ≤ 65535 := by
  obtain ⟨h1, hn⟩ := countWithin_iff.1 hr.2
  exact ⟨h1, hn, hn.trans hcfg.2.1⟩

theorem Running.unique {q : Data} (h : Running (.fifoGetPacket p) s) (h' : Running (.fifoGetPacket q) s) :
    p = q := by
  simpa [h.1] using h'.1

/-! #### The control states -/

theorem controlOk_access (hf : s.fsm = .access) : ControlOk s ↔ ∃ i, isAccessor i = true ∧
    Running i s ∧ s.seq.toNat < transactions i ∧ sourceWritten i s.buf = true := by
  rw [ControlOk, hf]

theorem controlOk_readPacket (hf : s.fsm = .readPacket) : ControlOk s ↔
    ∃ p, Running (.fifoGetPacket p) s ∧ 0 < s.remain.toNat ∧ s.idx.toNat + s.remain.toNat = p.toNat := by
  rw [ControlOk, hf]

theorem controlOk_drainReset (hf : s.fsm = .drainReset) : ControlOk s ↔
    ∃ p, Running (.fifoGetPacket p) s ∧ s.seq.toNat ≤ 1 := by
  rw [ControlOk, hf]

theorem controlOk_drainDiscard (hf : s.fsm = .drainDiscard) : ControlOk s ↔
    ∃ p, Running (.fifoGetPacket p) s := by
  rw [ControlOk, hf]

/-- Outside ACCESS no byte of BUF matters to the command in CMD. -/
theorem ControlOk.of_buf (h : ControlOk s) (hf : s.fsm ≠ .access) : ControlOk { s with buf := m } := by
  unfold ControlOk at h ⊢
  dsimp only
  generalize s.fsm = f at *
  cases f with
  | access => exact absurd rfl hf
  | _ => exact h

/-! #### An entry of the agenda -/

theorem Acted.controlOk (h : Acted s e t) (hs : ControlOk s) (hb : s.status.busy = s.fsm.isBusy) :
    ControlOk t := by
  cases h with
  | quiet h => rw [h]; exact hs
  | stored h0 =>
    refine hs.of_buf fun hf => ?_
    rw [h0, hf] at hb
    cases hb
  | refused => trivial
  | @begun w i _ hd hw hsrc =>
    cases hi : isAccessor i with
    | true => exact ⟨i, hi, ⟨hd, hw⟩, transactions_pos hi hw, hsrc⟩
    | false =>
      cases i with
      | fifoGetPacket p => exact ⟨p, hd, hw⟩
      | _ => cases hi
  | reset => trivial

theorem Acted.cfg_eq (h : Acted s e t) : t.cfg = s.cfg := by
  cases h with
  | quiet h => rw [h]
  | begun => split <;> rfl
  | stored | refused | reset => rfl

/-! #### A step of an accessor command -/

/-- The commands that fill BUF take nothing from it. -/
theorem FillsBuffer.sourceWritten (h : FillsBuffer i) : sourceWritten i m = true := by
  obtain ⟨reg, n, rfl | rfl | rfl⟩ := h <;> rfl

theorem Wrote.controlOk {rlen : Nat} (h : Wrote i s u) (hi : isAccessor i = true) (hr : Running i s)
    (hf : s.fsm = .access) (hsrc : Machine.sourceWritten i s.buf = true) :
    ControlOk (stepTo (transactions i) rlen u) := by
  have huf : u.fsm = .access := by rw [h.frame]; exact hf
  obtain ⟨-, e⟩ | ⟨hlt, e⟩ := stepTo_cases (transactions i) rlen u <;> rw [e]
  · have hidle : (complete rlen (advance u)).fsm = .idle := if_pos huf
    rw [ControlOk, hidle]
    trivial
  · have hrun : Running i (advance u) := by rw [h.frame]; exact hr
    have hseq : (u.seq + 1).toNat ≤ u.seq.toNat + 1 := by
      rw [BitVec.toNat_add]; exact Nat.mod_le _ _
    have hbuf : Machine.sourceWritten i u.buf = true := by
      obtain hb | ⟨hfill, -⟩ := h.buf
      · rw [hb]; exact hsrc
      · exact hfill.sourceWritten
    exact (controlOk_access (by exact huf)).2 ⟨i, hi, hrun, hseq.trans_lt hlt, hbuf⟩

/-! #### A step of the reader -/

/-- Entering READ_PACKET, all of the packet is left (R92). -/
theorem enterRead_controlOk (hr : Running (.fifoGetPacket p) u) (hcfg : u.cfg.Legal) :
    ControlOk (enterRead p.toNat u) := by
  obtain ⟨h1, -, hmax⟩ := packetSize_bounds hr hcfg
  have hrem : (BitVec.ofNat 16 p.toNat).toNat = p.toNat := Nat.mod_eq_of_lt (by omega)
  exact ⟨p, hr, h1.trans_eq hrem.symm, (Nat.zero_add _).trans hrem⟩

/-- A stored chunk moves IDX and REMAIN on together (R96). -/
theorem stores_controlOk (hr : Running (.fifoGetPacket p) u) (hcfg : u.cfg.Legal) (hu : ControlOk u)
    (hf : u.fsm = .readPacket) : ControlOk (packetDone p.toNat { u with
      buf := m, idx := BitVec.ofNat 16 (u.idx.toNat + chunk u),
      remain := BitVec.ofNat 16 (u.remain.toNat - chunk u) }) := by
  obtain ⟨q, hq, hpos, hsum⟩ := (controlOk_readPacket hf).1 hu
  obtain rfl := hr.unique hq
  obtain ⟨h1, -, hmax⟩ := packetSize_bounds hr hcfg
  have hchunk : chunk u ≤ u.remain.toNat := Nat.min_le_left _ _
  have hrem : (BitVec.ofNat 16 (u.remain.toNat - chunk u)).toNat = u.remain.toNat - chunk u :=
    Nat.mod_eq_of_lt (by omega)
  have hidx : (BitVec.ofNat 16 (u.idx.toNat + chunk u)).toNat = u.idx.toNat + chunk u :=
    Nat.mod_eq_of_lt (by omega)
  by_cases h0 : BitVec.ofNat 16 (u.remain.toNat - chunk u) = 0
  · rw [packetDone_of_none h0]
    exact ⟨p, hr, Nat.mod_eq_of_lt (by omega)⟩
  · have hne : (BitVec.ofNat 16 (u.remain.toNat - chunk u)).toNat ≠ 0 := fun h =>
      h0 (BitVec.eq_of_toNat_eq h)
    rw [packetDone_of_rest h0]
    refine (controlOk_readPacket (by exact hf)).2 ⟨p, hr, Nat.pos_of_ne_zero hne, ?_⟩
    exact (congrArg₂ (· + ·) hidx hrem).trans (by omega)

theorem ReaderMoved.controlOk (h : ReaderMoved p u t) (hr : Running (.fifoGetPacket p) u)
    (hcfg : u.cfg.Legal) (hu : ControlOk u) : ControlOk t := by
  cases h with
  | stays => exact hu
  | reads => exact enterRead_controlOk hr hcfg
  | timesOut => trivial
  | overflows => exact ⟨p, hr, Nat.zero_le _⟩
  | drains | waits | resets => exact ⟨p, hr⟩
  | takesByte hf => exact (controlOk_drainReset (by exact hf)).2 ⟨p, hr, le_rfl⟩
  | discards hf => exact (controlOk_drainDiscard (by exact hf)).2 ⟨p, hr⟩
  | stores hf => exact stores_controlOk hr hcfg hu hf

/-! #### A step of the latched command -/

theorem exec_busy_cfg (hb : s.status.busy = true) (h : exec i s = .next t) : t.cfg = s.cfg := by
  obtain ⟨req, next, h, hu⟩ := exec_busy hb h
  obtain ⟨d, -, -, rfl⟩ | ⟨-, rfl⟩ | ⟨b, -, rfl⟩ := h
  · exact (hu d).2.2.1
  · rfl
  · rfl

theorem exec_controlOk (hb : s.status.busy = true) (hd : decode s.cmd = .ok i)
    (h : exec i s = .next t) (hs : Inv s) : ControlOk t := by
  obtain ⟨hcfg, -, ⟨hbusy, -⟩, hc⟩ := hs
  obtain ⟨hi, hf, req, h⟩ | ⟨p, rfl, hf, req, h⟩ := exec_busy_cases hb h
  · obtain ⟨-, hw, -, hsrc⟩ := accessor_running hc hf hd
    obtain ⟨-, -, rlen, u, hwrote, rfl⟩ | ⟨-, rfl⟩ | ⟨b, -, rfl⟩ := h
    · exact hwrote.controlOk hi ⟨hd, hw⟩ hf hsrc
    · trivial
    · trivial
  · obtain ⟨q, hq⟩ := reader_running hc (hbusy ▸ hb) hf
    obtain rfl : p = q := by simpa [hd] using hq.1
    obtain ⟨-, -, u, hu, hm⟩ | ⟨-, rfl⟩ | ⟨b, -, rfl⟩ := h
    · refine hm.controlOk ?_ ?_ ?_ <;> rw [hu]
      · exact hq
      · exact hcfg
      · exact hc
    · trivial
    · trivial

end

end Sys2Proof.Machine
end

section
/-! PROOFS. The invariant and its parts, kept by every step. -/

namespace Sys2Proof.Machine

open Sys2Proof.Expect

/-- Settles O56: commands store inside BUF, and the host writes inside it. -/
theorem stepKeepsTheBufferCanonical : Obligations.StepKeepsTheBufferCanonical := by
  intro s t hs h
  obtain ⟨hb, s0, i, hturn, -, hx⟩ | ⟨-, -, rfl⟩ | ⟨e, rest, -, -, hact⟩ := step_cases h
  · rw [engineTurn_frame hturn] at hx
    exact exec_bufOk (by exact hb) hx hs
  · exact hs
  · exact hact.bufOk hs

/-- Settles O57: a running command has reported nothing, and each end reports one outcome. -/
theorem stepKeepsOneOutcome : Obligations.StepKeepsOneOutcome := by
  intro s t hs h
  obtain ⟨hb, s0, i, hturn, -, hx⟩ | ⟨-, -, rfl⟩ | ⟨e, rest, -, -, hact⟩ := step_cases h
  · rw [engineTurn_frame hturn] at hx
    exact exec_statusOk (by exact hb) hx hs
  · exact hs
  · exact hact.statusOk hs

/-- Settles O59: O56, O57, and the control state moving with SEQ, IDX and REMAIN. -/
theorem stepKeepsTheInvariant : Obligations.StepKeepsTheInvariant := by
  intro s t hs h
  have hbuf : BufOk t := stepKeepsTheBufferCanonical s t hs.bufOk h
  have hstatus : StatusOk t := stepKeepsOneOutcome s t hs.statusOk h
  obtain ⟨hb, s0, i, hturn, hd, hx⟩ | ⟨-, -, rfl⟩ | ⟨e, rest, -, -, hact⟩ := step_cases h
  · obtain ⟨hs0, hst, hcmd, -⟩ := engineTurn_unchanged hturn hs
    rw [← hst] at hb
    rw [← hcmd] at hd
    refine ⟨?_, hbuf, hstatus, exec_controlOk hb hd hx hs0⟩
    rw [exec_busy_cfg hb hx]
    exact hs0.legal
  · exact hs
  · obtain ⟨hcfg, -, ⟨hbusy, -⟩, hc⟩ := hs
    refine ⟨?_, hbuf, hstatus, hact.controlOk hc hbusy⟩
    rw [hact.cfg_eq]
    exact hcfg

end Sys2Proof.Machine
end

section
/-! SUPPORT. Runs of several ENGINE turns: whole accessor commands, the byte-at-a-time read, the packet read
and the backlog's discard (R68, R84, R95, R96). -/

namespace Sys2Proof.Machine

open Sys2Proof.Expect

section
variable {s t u : State} {i : Instr} {rest : List Event} {k : Nat}

/-- A run takes its first step, and goes on from there. -/
theorem coreRun_succ_of_next {M : Host.Core} {s u : M.State} (h : M.step s = .next u) (k : Nat) :
    M.run (k + 1) s = M.run k u := by
  rw [Host.Core.run, h]

theorem run_succ (h : step s = .next u) : Host.Core.run core (k + 1) s = Host.Core.run core k u :=
  coreRun_succ_of_next (M := core) h k

/-- The ENGINE's turn on the agenda runs the latched command. -/
theorem step_engine (hp : s.pfault = false) (hb : s.status.busy = true) (hd : decode s.cmd = .ok i)
    (ha : s.agenda = .engine :: rest) : step s = exec i { s with agenda := rest } :=
  step_engineTurn hp hb hd (.inl ⟨rest, ha, rfl⟩)

/-- A reply that lists exactly the bytes asked for delivers them (R38). -/
theorem replyTo_listed {req : Request} {d : List Byte} {more : List Reply}
    (h : s.replies = .ok d :: more) (hl : d.length = req.readLen) : replyTo req s = .ok d := by
  rw [replyTo_ok_cons h, ← hl, fillBytes_given]

/-- SEQ counts without wrapping. -/
theorem seq_succ_toNat {q : Half} (h : q.toNat < 65535) : (q + 1).toNat = q.toNat + 1 := by
  rw [BitVec.toNat_add]
  exact Nat.mod_eq_of_lt (by change q.toNat + 1 < 65536; omega)

/-! ### A whole accessor command -/

/-- No accessor command has more transactions than SEQ can count (R7, R45, R62). -/
theorem transactions_le (hw : i.wellFormed s.cfg = true) (hcfg : s.cfg.Legal) :
    transactions i ≤ 65535 := by
  obtain ⟨-, hbuf, -⟩ := hcfg
  cases i with
  | readWords reg n | writeWords reg n | readBytesS reg n | writeBytesS reg n =>
    have hn := (countWithin_iff.1 (Bool.and_eq_true_iff.1 hw).1).2
    change n.toNat ≤ 65535
    omega
  | writeBit | writeBits => exact (by decide : 2 ≤ 65535)
  | fifoGetPacket => exact Nat.zero_le _
  | _ => exact (by decide : 1 ≤ 65535)

/-- The state after the answered transaction `req` of an accessor command and what it wrote. -/
def wroteAfter (req : Request) (rest : List Event) (m : Memory) (b : Byte) (v : Data) (s : State) : State :=
  { afterTxn req { s with agenda := rest } with buf := m, tmp := b, result := v }

/-- A turn of a running accessor command whose transaction is answered. -/
theorem step_accessed {d : List Byte} {replies : List Reply} (hinv : Inv s) (hp : s.pfault = false)
    (hf : s.fsm = .access) (hd : decode s.cmd = .ok i) (ha : s.agenda = .engine :: rest)
    (hr : s.replies = .ok d :: replies) :
    ∃ req rlen m b v, step s = .next (stepTo (transactions i) rlen (wroteAfter req rest m b v s)) := by
  have hb : s.status.busy = true := hinv.busy (by rw [hf]; rfl)
  obtain ⟨hi, -⟩ := accessor_running hinv.controlOk hf hd
  obtain ⟨t, -, hx, -⟩ := (exec_performs (s := { s with agenda := rest }) hinv hb hd).next
  obtain ⟨-, req, h⟩ := exec_accessed (by exact hi) (by exact hb) hx
  have hok : replyTo req { s with agenda := rest } = .ok (fillBytes s.draws 0 req.readLen d) :=
    replyTo_ok_cons hr
  obtain ⟨-, -, rlen, u, hw, rfl⟩ | ⟨he, -⟩ | ⟨b, hc, -⟩ := h
  · refine ⟨req, rlen, u.buf, u.tmp, u.result, ((step_engine hp hb hd ha).trans hx).trans ?_⟩
    exact congrArg (fun u => Host.Outcome.next (stepTo (transactions i) rlen u)) hw.frame
  · cases hok.symm.trans he
  · cases hok.symm.trans hc

/-- The end of a whole command of which `k` transactions were left (R68). -/
def EndedAfter (k : Nat) (rest : List Event) (s t : State) : Prop :=
  t.status.busy = false ∧ t.status.done = true ∧ t.status.err = .none ∧ t.fsm = .idle ∧
    t.agenda = rest ∧ t.bus.length = s.bus.length + k

/-- A command with `r` transactions left is busy before each of its turns and has ended after the last. -/
theorem accessor_run (r : Nat) (hinv : Inv s) (hp : s.pfault = false) (hf : s.fsm = .access)
    (hd : decode s.cmd = .ok i) (hleft : s.seq.toNat + r = transactions i)
    (ha : s.agenda = List.replicate r .engine ++ rest) (hlen : r ≤ s.replies.length)
    (hok : ∀ q ∈ s.replies, ∃ d, q = .ok d) :
    (∀ k, k < r → ∃ u, Host.Core.run core k s = .next u ∧ u.status.busy = true ∧
      u.bus.length = s.bus.length + k) ∧
    ∃ t, Host.Core.run core r s = .next t ∧ EndedAfter r rest s t := by
  induction r generalizing s with
  | zero =>
    obtain ⟨-, -, hseq, -⟩ := accessor_running hinv.controlOk hf hd
    omega
  | succ r ih =>
    obtain ⟨-, hw, -, -⟩ := accessor_running hinv.controlOk hf hd
    have hmax := transactions_le hw hinv.legal
    have hb : s.status.busy = true := hinv.busy (by rw [hf]; rfl)
    rw [List.replicate_succ, List.cons_append] at ha
    obtain ⟨q, replies, hrep⟩ := List.exists_cons_of_length_pos (Nat.zero_lt_of_lt hlen)
    rw [hrep] at hlen hok
    obtain ⟨d, rfl⟩ := hok q (List.mem_cons_self ..)
    obtain ⟨req, rlen, m, b, v, hstep⟩ := step_accessed hinv hp hf hd ha hrep
    obtain ⟨hlast, e⟩ | ⟨hmore, e⟩ :=
      stepTo_cases (transactions i) rlen (wroteAfter req (List.replicate r .engine ++ rest) m b v s) <;>
      rw [e] at hstep
    · obtain rfl : r = 0 := by
        change transactions i ≤ s.seq.toNat + 1 at hlast
        omega
      obtain ⟨-, -, herr, -⟩ := hinv.statusOk.quiet hb
      refine ⟨fun k hk => ?_, _, run_succ hstep, rfl, rfl, herr, if_pos hf, rfl, rfl⟩
      obtain rfl := Nat.lt_one_iff.1 hk
      exact ⟨s, rfl, hb, rfl⟩
    · change s.seq.toNat + 1 < transactions i at hmore
      have hseq : (s.seq + 1).toNat = s.seq.toNat + 1 := seq_succ_toNat (by omega)
      have hinv' := stepKeepsTheInvariant _ _ hinv hstep
      obtain ⟨hbusy, t, ht, h1, h2, h3, h4, h5, hbus⟩ := ih hinv' hp hf hd
        (by change (s.seq + 1).toNat + r = _; omega) rfl
        (by change r ≤ s.replies.tail.length; rw [hrep]; exact Nat.le_of_succ_le_succ hlen)
        (by
          change ∀ q ∈ s.replies.tail, _
          rw [hrep]
          exact fun q hq => hok q (List.mem_cons_of_mem _ hq))
      change t.bus.length = s.bus.length + 1 + r at hbus
      refine ⟨fun k hk => ?_, t, (run_succ hstep).trans ht, h1, h2, h3, h4, h5, by omega⟩
      cases k with
      | zero => exact ⟨s, rfl, hb, rfl⟩
      | succ k =>
        obtain ⟨u, hu, hub, hul⟩ := hbusy k (by omega)
        change u.bus.length = s.bus.length + 1 + k at hul
        exact ⟨u, (run_succ hstep).trans hu, hub, by omega⟩

/-! ### The byte reads of READ_BYTES_S -/

/-- The state after a byte read of READ_BYTES_S that is not its last (R84). -/
def byteStored (a : RegAddr) (b : Byte) (rest : List Event) (s : State) : State :=
  { answered (.readByte a) (.ok [b]) { s with agenda := rest } with
    buf := s.buf.write s.seq.toNat b, seq := s.seq + 1 }

/-- READ_BYTES_S with the bytes `d` to come stores them from BUF[SEQ] on and completes (R84). -/
theorem readBytesS_run {reg : RegAddr} {n : Data} (d : List Byte) (hp : s.pfault = false)
    (ha : InAccess s) (hd : decode s.cmd = .ok (.readBytesS reg n)) (hn : n.toNat ≤ s.cfg.bufSize)
    (hmax : n.toNat ≤ 65535) (hne : d ≠ []) (hk : s.seq.toNat + d.length = n.toNat)
    (hag : s.agenda = List.replicate d.length .engine ++ rest)
    (hr : s.replies = d.map fun b => .ok [b]) :
    ∃ v, Host.Core.run core d.length s = .next v ∧ v.buf = s.buf.writeBlock s.seq.toNat d ∧
      v.status = s.status.completed n.toNat ∧ v.result = s.result ∧ v.fsm = .idle := by
  induction d generalizing s with
  | nil => exact absurd rfl hne
  | cons b d ih =>
    rw [List.length_cons, List.replicate_succ, List.cons_append] at hag
    rw [List.length_cons] at hk
    have hstep := (step_engine hp ha.1 hd hag).trans (exec_readBytesS_answered
      (s := { s with agenda := List.replicate d.length .engine ++ rest }) ha
      (by change s.seq.toNat < _; omega) hn (replyTo_listed hr rfl))
    by_cases hlast : s.seq.toNat + 1 = n.toNat
    · obtain rfl : d = [] := List.eq_nil_of_length_eq_zero (by omega)
      rw [afterTransaction, if_pos hlast] at hstep
      exact ⟨_, run_succ hstep, rfl, rfl, rfl, rfl⟩
    · rw [afterTransaction, if_neg hlast] at hstep
      have hseq : (s.seq + 1).toNat = s.seq.toNat + 1 := seq_succ_toNat (by omega)
      obtain ⟨v, hv, hbuf, hstatus, hresult, hf⟩ :=
        ih (s := byteStored (BitVec.ofNat 8 (reg.toNat + s.seq.toNat)) b
            (List.replicate d.length .engine ++ rest) s)
          hp ha hd hn (by rintro rfl; simp at hk; omega)
          (by change (s.seq + 1).toNat + _ = _; omega) rfl
          (by change s.replies.tail = _; rw [hr]; rfl)
      refine ⟨v, (run_succ hstep).trans hv, ?_, hstatus, hresult, hf⟩
      rw [hbuf]
      change (s.buf.write s.seq.toNat b).writeBlock (s.seq + 1).toNat d = _
      rw [hseq, Memory.writeBlock]

/-! ### The backlog's discard -/

/-- In DRAIN_DISCARD, the reader running with packet size `p`. -/
def Discarding (p : Data) (s : State) : Prop :=
  s.pfault = false ∧ InReader .drainDiscard s ∧ decode s.cmd = .ok (.fifoGetPacket p)

/-- An answer that keeps the reader in DRAIN_DISCARD: as data it is dropped, as a count it lies above
every packet size (R95, R102). -/
def fullCount : Reply := .ok [0xFF, 0xFF]

theorem count_full : count 0xFF 0xFF = 65535 := by decide

/-- A turn in DRAIN_DISCARD that is answered so ends in DRAIN_DISCARD. -/
theorem step_discarding {p : Data} {replies : List Reply} (h : Discarding p s) (hpm : p.toNat < 65535)
    (ha : s.agenda = .engine :: rest) (hr : s.replies = fullCount :: replies) :
    ∃ t, step s = .next t ∧ Discarding p t ∧ t.agenda = rest ∧ t.replies = replies := by
  obtain ⟨hp, ⟨hb, hf⟩, hd⟩ := h
  obtain ⟨hdrop, hcount⟩ := discardDropsTheBacklog p { s with agenda := rest } ⟨hb, hf⟩
  rw [step_engine hp hb hd ha]
  obtain h0 | hpos := Nat.eq_zero_or_pos s.remain.toNat
  · obtain ⟨hmore, -⟩ := hcount _ 0xFF 0xFF h0 (replyTo_listed hr rfl) rfl
    exact ⟨_, hmore (hpm.trans_eq count_full.symm), ⟨hp, ⟨hb, hf⟩, hd⟩, rfl, by
      change s.replies.tail = _; rw [hr]; rfl⟩
  · have hreply : replyTo (.read s.cfg.fifoDataAddr (chunk s)) { s with agenda := rest } =
        .ok (fillBytes s.draws 0 (chunk s) [0xFF, 0xFF]) := replyTo_ok_cons hr
    exact ⟨_, hdrop _ _ hpos rfl hreply, ⟨hp, ⟨hb, hf⟩, hd⟩, rfl, by
      change s.replies.tail = _; rw [hr]; rfl⟩

/-- The first `n` clock advances, each before a turn of the ENGINE. -/
def tickedTurns (n : Nat) (ticks : List Ticks) : List Event :=
  (ticks.take n).flatMap fun d => [.tick d, .engine]

/-- Every further tick and turn finds the reader in DRAIN_DISCARD again (R102). -/
theorem discarding_run {p : Data} {n : Nat} {ticks : List Ticks} (h : Discarding p s)
    (hpm : p.toNat < 65535) (ha : s.agenda = tickedTurns n ticks) (hn : n ≤ ticks.length)
    (hr : s.replies = List.replicate n fullCount) :
    ∃ t, Host.Core.run core (2 * n) s = .next t ∧ Discarding p t := by
  induction n generalizing s ticks with
  | zero => exact ⟨s, rfl, h⟩
  | succ n ih =>
    obtain ⟨d, ticks, rfl⟩ := List.exists_cons_of_length_pos (Nat.zero_lt_of_lt hn)
    have hsplit : s.agenda = .tick d :: .engine :: tickedTurns n ticks := by
      rw [ha, tickedTurns, List.take_succ_cons, List.flatMap_cons]; rfl
    have htick : step s = .next (clockTick d { s with agenda := .engine :: tickedTurns n ticks }) :=
      step_cons h.1 hsplit
    obtain ⟨u, hu, hdu, hau, hru⟩ := step_discarding
      (s := clockTick d { s with agenda := .engine :: tickedTurns n ticks }) h hpm rfl hr
    obtain ⟨t, ht, hdt⟩ := ih hdu hau (Nat.le_of_succ_le_succ hn) hru
    exact ⟨t, (run_succ htick).trans ((run_succ hu).trans ht), hdt⟩

/-! ### The packet read -/

/-- The device's answers that deliver `d` in `m` chunks of at most `size` bytes (R96). -/
def chunkReplies (size : Nat) (d : List Byte) (m : Nat) : List Reply :=
  (List.range m).map fun j => .ok ((d.drop (j * size)).take size)

theorem chunkReplies_succ (size : Nat) (d : List Byte) (m : Nat) :
    chunkReplies size d (m + 1) = .ok (d.take size) :: chunkReplies size (d.drop size) m := by
  simp [chunkReplies, List.range_succ_eq_map, Nat.succ_mul, Nat.add_comm]

/-- The number of chunks, one chunk further on. -/
theorem chunks_succ {n size : Nat} (hs : 1 ≤ size) (hn : size < n) :
    (n + size - 1) / size = (n - size + size - 1) / size + 1 := by
  rw [← Nat.add_div_right _ hs]
  congr 1
  omega

theorem chunks_one {n size : Nat} (h1 : 1 ≤ n) (hn : n ≤ size) : (n + size - 1) / size = 1 :=
  Nat.div_eq_of_lt_le (by omega) (by omega)

/-- The packet read's end, `m` transactions after `s`: the bytes `d` stand in BUF from IDX on, and nothing
else of BUF has changed (R96, R98, R99). -/
structure Delivered (p : Data) (d : List Byte) (m : Nat) (more : List Reply) (s t : State) : Prop where
  fsm : t.fsm = .packetReady
  pkt : t.status.pkt = true
  busy : t.status.busy = false
  done : t.status.done = true
  err : t.status.err = .none
  rlen : t.status.rlen.toNat = p.toNat
  inside : ∀ j, j < d.length → t.buf.read (s.idx.toNat + j) = d[j]?
  outside : ∀ j, j < s.idx.toNat ∨ s.idx.toNat + d.length ≤ j → t.buf.read j = s.buf.read j
  bus : t.bus.length = s.bus.length + m
  replies : t.replies = more

/-- A chunk of `k` bytes before the rest of the packet. -/
theorem Delivered.after_chunk {p : Data} {d : List Byte} {m k : Nat} {more : List Reply}
    (h : Delivered p (d.drop k) m more u t) (hk : k ≤ d.length) (hidx : u.idx.toNat = s.idx.toNat + k)
    (hnew : ∀ j, j < k → u.buf.read (s.idx.toNat + j) = (d.take k)[j]?)
    (hold : ∀ j, j < s.idx.toNat ∨ s.idx.toNat + k ≤ j → u.buf.read j = s.buf.read j)
    (hbus : u.bus.length = s.bus.length + 1) : Delivered p d (m + 1) more s t where
  fsm := h.fsm
  pkt := h.pkt
  busy := h.busy
  done := h.done
  err := h.err
  rlen := h.rlen
  inside j hj := by
    by_cases hjk : j < k
    · rw [h.outside _ (.inl (by omega)), hnew j hjk, List.getElem?_take_of_lt hjk]
    · have hrest := h.inside (j - k) (by rw [List.length_drop]; omega)
      rwa [hidx, List.getElem?_drop, Nat.add_assoc, Nat.add_sub_of_le (Nat.not_lt.1 hjk)] at hrest
  outside j hj := by
    rw [h.outside j (by rw [List.length_drop]; omega), hold j (by omega)]
  bus := by rw [h.bus, hbus]; omega
  replies := h.replies

/-- From READ_PACKET with the bytes `d` to come, the turns read them chunk by chunk (R96, R101). -/
theorem packet_run {p : Data} (m : Nat) (d : List Byte) (more : List Reply) (hinv : Inv s)
    (hp : s.pfault = false) (hin : InReader .readPacket s) (hd : decode s.cmd = .ok (.fifoGetPacket p))
    (hlen : d.length = s.remain.toNat) (hm : m = (d.length + s.cfg.maxBlock - 1) / s.cfg.maxBlock)
    (ha : s.agenda = List.replicate m .engine ++ rest)
    (hr : s.replies = chunkReplies s.cfg.maxBlock d m ++ more) :
    ∃ t, Host.Core.run core m s = .next t ∧ Delivered p d m more s t := by
  induction m generalizing s d with
  | zero =>
    obtain ⟨-, -, hblock, -⟩ := hinv.legal
    obtain ⟨q, -, hpos, -⟩ := (controlOk_readPacket hin.2).1 hinv.controlOk
    have := Nat.div_pos (show s.cfg.maxBlock ≤ d.length + s.cfg.maxBlock - 1 by omega) hblock
    omega
  | succ m ih =>
    obtain ⟨q, hq, hpos, hsum⟩ := (controlOk_readPacket hin.2).1 hinv.controlOk
    obtain rfl : p = q := by simpa [hd] using hq.1
    obtain ⟨-, hfit, hmax⟩ := packetSize_bounds hq hinv.legal
    obtain ⟨-, -, hblock, -⟩ := hinv.legal
    obtain ⟨-, -, herr, -⟩ := hinv.statusOk.quiet hin.1
    rw [List.replicate_succ, List.cons_append] at ha
    rw [chunkReplies_succ, List.cons_append] at hr
    have htake : (d.take s.cfg.maxBlock).length = chunk s := by
      rw [List.length_take, hlen, Nat.min_comm]; rfl
    obtain ⟨mem, hnew, hold, hmore, hlast⟩ := packetReadStoresTheNextChunk p
      { s with agenda := List.replicate m .engine ++ rest } _ (chunk s) _ hin
      (by change s.idx.toNat + s.remain.toNat ≤ s.cfg.bufSize; omega) rfl (replyTo_listed hr htake) rfl
    rw [← step_engine hp hin.1 hd ha] at hmore hlast
    by_cases hk : s.remain.toNat ≤ s.cfg.maxBlock
    · have hchunk : chunk s = s.remain.toNat := Nat.min_eq_left hk
      obtain rfl : m = 0 := by rw [chunks_one (by omega) (by omega)] at hm; omega
      rw [List.take_of_length_le (by omega), hchunk, ← hlen] at hnew
      rw [hchunk, ← hlen] at hold
      exact ⟨_, run_succ (hlast hchunk.symm), rfl, rfl, rfl, rfl, herr, Nat.mod_eq_of_lt (by omega),
        hnew, hold, rfl, by change s.replies.tail = _; rw [hr]; rfl⟩
    · have hchunk : chunk s = s.cfg.maxBlock := Nat.min_eq_right (by omega)
      have hstep := hmore (by change chunk s < s.remain.toNat; omega)
      have hidx : (BitVec.ofNat 16 (s.idx.toNat + chunk s)).toNat = s.idx.toNat + chunk s :=
        Nat.mod_eq_of_lt (by omega)
      have hrem : (BitVec.ofNat 16 (s.remain.toNat - chunk s)).toNat = s.remain.toNat - chunk s :=
        Nat.mod_eq_of_lt (by omega)
      obtain ⟨t, ht, hdel⟩ := ih (d.drop s.cfg.maxBlock) (stepKeepsTheInvariant _ _ hinv hstep) hp hin hd
        (by rw [List.length_drop, ← hchunk, hlen]; exact hrem.symm)
        (by
          change m = ((d.drop s.cfg.maxBlock).length + s.cfg.maxBlock - 1) / s.cfg.maxBlock
          rw [chunks_succ hblock (by omega)] at hm
          rw [List.length_drop]
          omega)
        rfl (by change s.replies.tail = _; rw [hr]; rfl)
      rw [← hchunk] at hdel hnew
      exact ⟨t, (run_succ hstep).trans ht, hdel.after_chunk (by omega) hidx hnew hold rfl⟩

end

end Sys2Proof.Machine
end

section
/-! PROOFS. The statements about runs: whole accessor commands, whole packets, and the discard. -/

namespace Sys2Proof.Machine

open Sys2Proof.Expect

/-- Settles O32, by induction on the transactions left. -/
theorem accessorTakesExactlyItsTransactions : Obligations.AccessorTakesExactlyItsTransactions := by
  intro i s rest hinv hp hf hseq hd ha hlen hok
  exact accessor_run (transactions i) hinv hp hf hd (by rw [hseq]; exact Nat.zero_add _) ha hlen hok

/-- Settles O33: the byte reads store from BUF[0] on what the block read stores there. -/
theorem byteFormReadsWhatTheBlockFormReads : Obligations.ByteFormReadsWhatTheBlockFormReads := by
  rintro reg n d s _ rest hp ha hseq h1 hn hbuf hlen hd hag hr rfl
  have hblock := (step_engine hp ha.1 hd hag).trans
    (exec_readBytes_answered (s := { s with agenda := rest }) ha hn (replyTo_listed hr hlen))
  obtain ⟨v, hv, hvbuf, hvstatus, hvresult, hvf⟩ := readBytesS_run (rest := rest) (s := { s with
      cmd := encode (.readBytesS reg n), agenda := List.replicate n.toNat .engine ++ rest,
      replies := d.map fun b => .ok [b] }) d hp ha (decodeOfEncodeIsTheCommand _) hn (hn.trans hbuf)
    (by rintro rfl; exact absurd h1 (by rw [← hlen]; decide))
    (by change s.seq.toNat + _ = _; rw [hseq, hlen]; exact Nat.zero_add _) (by rw [hlen]) rfl
  rw [hlen] at hv
  refine ⟨_, v, run_succ hblock, hv, ?_, hvstatus, hvresult, hvf, rfl⟩
  rw [hvbuf]
  change s.buf.writeBlock s.seq.toNat d = s.buf.writeBlock 0 d
  rw [hseq]; rfl

/-- Settles O42, by induction on the chunks. -/
theorem packetIsDeliveredWhole : Obligations.PacketIsDeliveredWhole := by
  intro p s d m rest more hinv hp hin hd hidx hrem hlen hm ha hr
  obtain ⟨t, ht, h⟩ := packet_run m d more hinv hp hin hd (hlen.trans hrem.symm) (hlen ▸ hm) ha hr
  have h0 : s.idx.toNat = 0 := by rw [hidx]; rfl
  refine ⟨t, ht, h.fsm, h.pkt, h.busy, h.done, h.err, h.rlen, fun j hj => ?_, fun j hj => ?_, h.bus,
    h.replies⟩
  · rw [← h.inside j (by omega), h0, Nat.zero_add]
  · exact h.outside j (.inr (by omega))

/-- Settles O43: the device answers every read with bytes that are a count above P. -/
theorem backlogCanBeDiscardedForever : Obligations.BacklogCanBeDiscardedForever := by
  intro p s n ticks _ hp hin hd hpm ha hn
  obtain ⟨t, ht, -, ⟨hb, hf⟩, -⟩ := discarding_run (s := { s with replies := List.replicate n fullCount })
    ⟨hp, hin, hd⟩ hpm ha hn rfl
  exact ⟨_, t, ht, hf, hb⟩

end Sys2Proof.Machine
end
